-- ==== Sys2Proof/Word.lean ====
section
/-! DEFINITION. The word type of the CORE: every register, memory cell, call-stack entry, instruction byte and
operand is an unsigned byte (00_scope.md R7). -/

namespace Sys2Proof

/-- A byte, read as an unsigned integer in 0..255 (R7). Bit 7 is the most significant (R6). -/
abbrev Byte := BitVec 8

end Sys2Proof
end

