-- ==== Sys2Proof/Config.lean ====
section
/-! DEFINITION. The sizes and fixed numbers of the CORE (00_scope.md R5). The spec leaves no value open, so there is
no free value here: `R5 "The CORE fixes every size itself. None is left to an implementation"`. -/

namespace Sys2Proof.Config

/-- Bytes in each of PROM and DATA, addresses 0..255 (R5, R60). -/
@[simp] abbrev memBytes : Nat := 256

/-- Bytes in one instruction (R5, R80). -/
@[simp] abbrev instrBytes : Nat := 4

/-- The longest program, in instructions (R5, R69, R271). -/
@[simp] abbrev maxInstrs : Nat := 64

/-- Entries of the call stack (R5, R29; 90_conflicts.md C3). -/
@[simp] abbrev stackDepth : Nat := 256

/-- Register index 5, ADDR: the address of every memory access (R21). -/
@[simp] abbrev addrIndex : Byte := 5#8

/-- Register index 6, the program counter (R21, R26). -/
@[simp] abbrev pcIndex : Byte := 6#8

/-- Register index 7, the console port (R21). -/
@[simp] abbrev ioIndex : Byte := 7#8

/-- The opcode byte HALT (R5, R86). -/
@[simp] abbrev haltOpcode : Byte := 0xFF#8

/-- The reset vector (R270, R272). -/
@[simp] abbrev resetVector : Byte := 0#8

/-- What a cell that is not listed in a memory reads as: the reset contents of DATA and of the call stack, and
PROM's zero fill after the program (R69, R270, R271). -/
@[simp] abbrev emptyByte : Byte := 0#8

end Sys2Proof.Config
end

