-- ==== Sys2Proof/Syntax.lean ====
section
/-! DEFINITION. The instructions of the CORE as syntax: one constructor of `Instr` per row of
spec/opcode_table.json (30_encoding.md R84), every operand byte kept. -/

namespace Sys2Proof

/-- A left or right operand (R81, R92, R93): a literal byte, or a register index byte. An index may be any byte
0..255: the decoder does not check it, its resolution does. -/
inductive Operand where
  | imm (v : Byte)
  | reg (i : Byte)
deriving DecidableEq, Repr

/-- The operand byte itself (R82). -/
def Operand.value : Operand → Byte
  | .imm v => v
  | .reg i => i

/-- The immediate flag of the operand: IL for the left one, IR for the right one (R81). -/
def Operand.isImmediate : Operand → Bool
  | .imm _ => true
  | .reg _ => false

/-- The operand that an immediate flag and an operand byte make (R88). -/
def Operand.ofFlag (flag : Bool) (v : Byte) : Operand := if flag then .imm v else .reg v

/-- The ten ALU operations (R84, R88, R151). -/
inductive AluOp where
  | or | and | add | sub | not | xor | leftShift | rightShift | mod | div
deriving DecidableEq, Repr

/-- The six relations of the branch condition evaluator (R84, R180). -/
inductive Rel where
  | equal | notEqual | less | lessEqual | greater | greaterEqual
deriving DecidableEq, Repr

/-- One instruction: four bytes, opcode and operands a, b, c (R80, R82). `l` and `r` are the left and right
operand, `c` the third operand byte: a register index, a program address or unused (R94). The constructors from
`nop63rr` on share opclass 63: three no-ops, by their immediate flags, and HALT, whose opcode byte is 0xFF (R84, R86).
Every term is an instruction of the hardware and every four bytes are one (R87, R91). -/
inductive Instr where
  /-- OR, opclass 0, R152: bitwise or. -/
  | or (l r : Operand) (c : Byte)
  /-- AND, opclass 1, R153: bitwise and. -/
  | and (l r : Operand) (c : Byte)
  /-- ADD, opclass 2, R154: addition modulo 256. -/
  | add (l r : Operand) (c : Byte)
  /-- SUB, opclass 3, R155: subtraction without wrap. -/
  | sub (l r : Operand) (c : Byte)
  /-- NOT, opclass 4, R156: complement of the left operand. -/
  | not (l r : Operand) (c : Byte)
  /-- XOR, opclass 5, R157: bitwise exclusive or. -/
  | xor (l r : Operand) (c : Byte)
  /-- SHL, opclass 8, R158: logical left shift. -/
  | shl (l r : Operand) (c : Byte)
  /-- SHR, opclass 9, R159: logical right shift. -/
  | shr (l r : Operand) (c : Byte)
  /-- MOD, opclass 12, R160: unsigned remainder. -/
  | mod (l r : Operand) (c : Byte)
  /-- DIV, opclass 13, R161: unsigned quotient. -/
  | div (l r : Operand) (c : Byte)
  /-- STORE, opclass 16, R201: DATA[ADDR] <- left; `c` is kept and unused. -/
  | store (l r : Operand) (c : Byte)
  /-- LOAD, opclass 24, R202: DATA[ADDR] to the destination. -/
  | load (l r : Operand) (c : Byte)
  /-- LOADP, opclass 25, R203: PROM[ADDR] to the destination. -/
  | loadp (l r : Operand) (c : Byte)
  /-- BEQ, opclass 32, R182: branch if equal. -/
  | beq (l r : Operand) (c : Byte)
  /-- BNE, opclass 33, R183: branch if not equal. -/
  | bne (l r : Operand) (c : Byte)
  /-- BLT, opclass 34, R184: branch if less. -/
  | blt (l r : Operand) (c : Byte)
  /-- BLE, opclass 35, R185: branch if less or equal. -/
  | ble (l r : Operand) (c : Byte)
  /-- BGT, opclass 36, R186: branch if greater. -/
  | bgt (l r : Operand) (c : Byte)
  /-- BGE, opclass 37, R187: branch if greater or equal. -/
  | bge (l r : Operand) (c : Byte)
  /-- CALL, opclass 38, R222: call a subroutine. -/
  | call (l r : Operand) (c : Byte)
  /-- RET, opclass 39, R223: return; every operand byte is kept and unused. -/
  | ret (l r : Operand) (c : Byte)
  -- The no-ops, R131, opclass as the name says.
  | nop6 (l r : Operand) (c : Byte)
  | nop7 (l r : Operand) (c : Byte)
  | nop10 (l r : Operand) (c : Byte)
  | nop11 (l r : Operand) (c : Byte)
  | nop14 (l r : Operand) (c : Byte)
  | nop15 (l r : Operand) (c : Byte)
  | nop17 (l r : Operand) (c : Byte)
  | nop18 (l r : Operand) (c : Byte)
  | nop19 (l r : Operand) (c : Byte)
  | nop20 (l r : Operand) (c : Byte)
  | nop21 (l r : Operand) (c : Byte)
  | nop22 (l r : Operand) (c : Byte)
  | nop23 (l r : Operand) (c : Byte)
  | nop26 (l r : Operand) (c : Byte)
  | nop27 (l r : Operand) (c : Byte)
  | nop28 (l r : Operand) (c : Byte)
  | nop29 (l r : Operand) (c : Byte)
  | nop30 (l r : Operand) (c : Byte)
  | nop31 (l r : Operand) (c : Byte)
  | nop40 (l r : Operand) (c : Byte)
  | nop41 (l r : Operand) (c : Byte)
  | nop42 (l r : Operand) (c : Byte)
  | nop43 (l r : Operand) (c : Byte)
  | nop44 (l r : Operand) (c : Byte)
  | nop45 (l r : Operand) (c : Byte)
  | nop46 (l r : Operand) (c : Byte)
  | nop47 (l r : Operand) (c : Byte)
  | nop48 (l r : Operand) (c : Byte)
  | nop49 (l r : Operand) (c : Byte)
  | nop50 (l r : Operand) (c : Byte)
  | nop51 (l r : Operand) (c : Byte)
  | nop52 (l r : Operand) (c : Byte)
  | nop53 (l r : Operand) (c : Byte)
  | nop54 (l r : Operand) (c : Byte)
  | nop55 (l r : Operand) (c : Byte)
  | nop56 (l r : Operand) (c : Byte)
  | nop57 (l r : Operand) (c : Byte)
  | nop58 (l r : Operand) (c : Byte)
  | nop59 (l r : Operand) (c : Byte)
  | nop60 (l r : Operand) (c : Byte)
  | nop61 (l r : Operand) (c : Byte)
  | nop62 (l r : Operand) (c : Byte)
  /-- NOP63, opcode byte 0x3F: both operands name registers. -/
  | nop63rr (a b c : Byte)
  /-- NOP63, opcode byte 0x7F: left a register, right an immediate. -/
  | nop63ri (a b c : Byte)
  /-- NOP63, opcode byte 0xBF: left an immediate, right a register. -/
  | nop63ir (a b c : Byte)
  /-- HALT, opcode byte 0xFF, R132: every operand byte is kept and unused. -/
  | halt (a b c : Byte)
deriving DecidableEq, Repr

/-- The fields of an instruction: its opclass, its two operands with their immediate flags, and its byte `c`
(R81, R82, R84). -/
structure Fields where
  opclass : BitVec 6
  left : Operand
  right : Operand
  c : Byte
deriving DecidableEq, Repr

end Sys2Proof
end

