-- ==== Sys2Proof/Decode.lean ====
section
/-! DEFINITION. The instruction decoder, total on any bytes, and after it the encoder, both written from
30_encoding.md R81, R82 and R84, and the opcode table as rows. -/

namespace Sys2Proof

/-- Bit 7 of the opcode byte, IL: the left operand is an immediate (R81). -/
def immLeft (op : Byte) : Bool := op.getLsbD 7

/-- Bit 6 of the opcode byte, IR: the right operand is an immediate (R81). -/
def immRight (op : Byte) : Bool := op.getLsbD 6

/-- Bits 5:0 of the opcode byte, the opclass (R81). -/
def opclass (op : Byte) : BitVec 6 := op.extractLsb' 0 6

/-- Opclass 63 (R84, R86): the whole byte 0xFF is HALT, the other three opcode bytes are no-ops. -/
def decodeClass63 : Operand → Operand → Byte → Instr
  | .imm a, .imm b, c => .halt a b c
  | .imm a, .reg b, c => .nop63ir a b c
  | .reg a, .imm b, c => .nop63ri a b c
  | .reg a, .reg b, c => .nop63rr a b c

/-- The instruction of an opclass (R84), matched by exact equality of all six bits (R85). -/
def decodeClass (k : Nat) (l r : Operand) (c : Byte) : Instr :=
  match k with
  | 0 => .or l r c
  | 1 => .and l r c
  | 2 => .add l r c
  | 3 => .sub l r c
  | 4 => .not l r c
  | 5 => .xor l r c
  | 6 => .nop6 l r c
  | 7 => .nop7 l r c
  | 8 => .shl l r c
  | 9 => .shr l r c
  | 10 => .nop10 l r c
  | 11 => .nop11 l r c
  | 12 => .mod l r c
  | 13 => .div l r c
  | 14 => .nop14 l r c
  | 15 => .nop15 l r c
  | 16 => .store l r c
  | 17 => .nop17 l r c
  | 18 => .nop18 l r c
  | 19 => .nop19 l r c
  | 20 => .nop20 l r c
  | 21 => .nop21 l r c
  | 22 => .nop22 l r c
  | 23 => .nop23 l r c
  | 24 => .load l r c
  | 25 => .loadp l r c
  | 26 => .nop26 l r c
  | 27 => .nop27 l r c
  | 28 => .nop28 l r c
  | 29 => .nop29 l r c
  | 30 => .nop30 l r c
  | 31 => .nop31 l r c
  | 32 => .beq l r c
  | 33 => .bne l r c
  | 34 => .blt l r c
  | 35 => .ble l r c
  | 36 => .bgt l r c
  | 37 => .bge l r c
  | 38 => .call l r c
  | 39 => .ret l r c
  | 40 => .nop40 l r c
  | 41 => .nop41 l r c
  | 42 => .nop42 l r c
  | 43 => .nop43 l r c
  | 44 => .nop44 l r c
  | 45 => .nop45 l r c
  | 46 => .nop46 l r c
  | 47 => .nop47 l r c
  | 48 => .nop48 l r c
  | 49 => .nop49 l r c
  | 50 => .nop50 l r c
  | 51 => .nop51 l r c
  | 52 => .nop52 l r c
  | 53 => .nop53 l r c
  | 54 => .nop54 l r c
  | 55 => .nop55 l r c
  | 56 => .nop56 l r c
  | 57 => .nop57 l r c
  | 58 => .nop58 l r c
  | 59 => .nop59 l r c
  | 60 => .nop60 l r c
  | 61 => .nop61 l r c
  | 62 => .nop62 l r c
  | _ => decodeClass63 l r c

/-- The decoder on the four bytes of an instruction: every pattern decodes (R87, R91). -/
def decode (op a b c : Byte) : Instr :=
  decodeClass (opclass op).toNat (.ofFlag (immLeft op) a) (.ofFlag (immRight op) b) c

/-- Why bytes are no instruction: fewer than the four bytes of an instruction are there (R80). No four bytes are
refused (R87). -/
inductive DecodeError where
  | truncated (present : Nat)
deriving DecidableEq, Repr

/-- The decoder on any bytes, in memory order, opcode first (R65): the instruction and the bytes after it, or the
named reason why there is none. -/
def decodeBytes : List Byte → Except DecodeError (Instr × List Byte)
  | op :: a :: b :: c :: rest => .ok (decode op a b c, rest)
  | short => .error (.truncated short.length)

/-- The fields of each instruction, from R84 and, for opclass 63, R86 and R131. -/
def Instr.fields : Instr → Fields
  | .or l r c => ⟨0, l, r, c⟩
  | .and l r c => ⟨1, l, r, c⟩
  | .add l r c => ⟨2, l, r, c⟩
  | .sub l r c => ⟨3, l, r, c⟩
  | .not l r c => ⟨4, l, r, c⟩
  | .xor l r c => ⟨5, l, r, c⟩
  | .nop6 l r c => ⟨6, l, r, c⟩
  | .nop7 l r c => ⟨7, l, r, c⟩
  | .shl l r c => ⟨8, l, r, c⟩
  | .shr l r c => ⟨9, l, r, c⟩
  | .nop10 l r c => ⟨10, l, r, c⟩
  | .nop11 l r c => ⟨11, l, r, c⟩
  | .mod l r c => ⟨12, l, r, c⟩
  | .div l r c => ⟨13, l, r, c⟩
  | .nop14 l r c => ⟨14, l, r, c⟩
  | .nop15 l r c => ⟨15, l, r, c⟩
  | .store l r c => ⟨16, l, r, c⟩
  | .nop17 l r c => ⟨17, l, r, c⟩
  | .nop18 l r c => ⟨18, l, r, c⟩
  | .nop19 l r c => ⟨19, l, r, c⟩
  | .nop20 l r c => ⟨20, l, r, c⟩
  | .nop21 l r c => ⟨21, l, r, c⟩
  | .nop22 l r c => ⟨22, l, r, c⟩
  | .nop23 l r c => ⟨23, l, r, c⟩
  | .load l r c => ⟨24, l, r, c⟩
  | .loadp l r c => ⟨25, l, r, c⟩
  | .nop26 l r c => ⟨26, l, r, c⟩
  | .nop27 l r c => ⟨27, l, r, c⟩
  | .nop28 l r c => ⟨28, l, r, c⟩
  | .nop29 l r c => ⟨29, l, r, c⟩
  | .nop30 l r c => ⟨30, l, r, c⟩
  | .nop31 l r c => ⟨31, l, r, c⟩
  | .beq l r c => ⟨32, l, r, c⟩
  | .bne l r c => ⟨33, l, r, c⟩
  | .blt l r c => ⟨34, l, r, c⟩
  | .ble l r c => ⟨35, l, r, c⟩
  | .bgt l r c => ⟨36, l, r, c⟩
  | .bge l r c => ⟨37, l, r, c⟩
  | .call l r c => ⟨38, l, r, c⟩
  | .ret l r c => ⟨39, l, r, c⟩
  | .nop40 l r c => ⟨40, l, r, c⟩
  | .nop41 l r c => ⟨41, l, r, c⟩
  | .nop42 l r c => ⟨42, l, r, c⟩
  | .nop43 l r c => ⟨43, l, r, c⟩
  | .nop44 l r c => ⟨44, l, r, c⟩
  | .nop45 l r c => ⟨45, l, r, c⟩
  | .nop46 l r c => ⟨46, l, r, c⟩
  | .nop47 l r c => ⟨47, l, r, c⟩
  | .nop48 l r c => ⟨48, l, r, c⟩
  | .nop49 l r c => ⟨49, l, r, c⟩
  | .nop50 l r c => ⟨50, l, r, c⟩
  | .nop51 l r c => ⟨51, l, r, c⟩
  | .nop52 l r c => ⟨52, l, r, c⟩
  | .nop53 l r c => ⟨53, l, r, c⟩
  | .nop54 l r c => ⟨54, l, r, c⟩
  | .nop55 l r c => ⟨55, l, r, c⟩
  | .nop56 l r c => ⟨56, l, r, c⟩
  | .nop57 l r c => ⟨57, l, r, c⟩
  | .nop58 l r c => ⟨58, l, r, c⟩
  | .nop59 l r c => ⟨59, l, r, c⟩
  | .nop60 l r c => ⟨60, l, r, c⟩
  | .nop61 l r c => ⟨61, l, r, c⟩
  | .nop62 l r c => ⟨62, l, r, c⟩
  | .nop63rr a b c => ⟨63, .reg a, .reg b, c⟩
  | .nop63ri a b c => ⟨63, .reg a, .imm b, c⟩
  | .nop63ir a b c => ⟨63, .imm a, .reg b, c⟩
  | .halt a b c => ⟨63, .imm a, .imm b, c⟩

/-- The opcode byte of the two immediate flags and an opclass: IL in bit 7, IR in bit 6, the opclass in bits 5:0
(R81; R98 writes it `op = 128*IL + 64*IR + k`). -/
def opcodeByte (il ir : Bool) (k : BitVec 6) : Byte := BitVec.ofBool il ++ BitVec.ofBool ir ++ k

/-- The opcode byte of an instruction. -/
def Instr.opcode (i : Instr) : Byte :=
  opcodeByte i.fields.left.isImmediate i.fields.right.isImmediate i.fields.opclass

/-- The four bytes of an instruction in memory order: opcode, a, b, c (R65, R82). -/
def encode (i : Instr) : List Byte :=
  [i.opcode, i.fields.left.value, i.fields.right.value, i.fields.c]

/-- The four bytes of a 32-bit word in the notation of R83, `W = op ++ a ++ b ++ c`, in memory order. -/
def wordBytes (w : BitVec 32) : List Byte :=
  [w.extractLsb' 24 8, w.extractLsb' 16 8, w.extractLsb' 8 8, w.extractLsb' 0 8]

/-- The word of a table row of `nbits` bits: bits as R83 and spec/opcode_table.json number them (the opcode byte is
bits 31..24), and zero above `nbits`. -/
def tableWord (nbits w : Nat) : BitVec 32 := BitVec.ofNat 32 (w % 2 ^ nbits)

/-- The instruction this decoder reads from a word numbered as spec/opcode_table.json numbers it. -/
def decodeTableWord (nbits w : Nat) : Option Instr :=
  match decodeBytes (wordBytes (tableWord nbits w)) with
  | .ok (i, _) => some i
  | .error _ => none

/-- The mnemonic of each instruction in spec/opcode_table.json (R84; the spec's own names, D18). -/
def Instr.mnemonic : Instr → String
  | .or _ _ _ => "OR"
  | .and _ _ _ => "AND"
  | .add _ _ _ => "ADD"
  | .sub _ _ _ => "SUB"
  | .not _ _ _ => "NOT"
  | .xor _ _ _ => "XOR"
  | .nop6 _ _ _ => "NOP6"
  | .nop7 _ _ _ => "NOP7"
  | .shl _ _ _ => "SHL"
  | .shr _ _ _ => "SHR"
  | .nop10 _ _ _ => "NOP10"
  | .nop11 _ _ _ => "NOP11"
  | .mod _ _ _ => "MOD"
  | .div _ _ _ => "DIV"
  | .nop14 _ _ _ => "NOP14"
  | .nop15 _ _ _ => "NOP15"
  | .store _ _ _ => "STORE"
  | .nop17 _ _ _ => "NOP17"
  | .nop18 _ _ _ => "NOP18"
  | .nop19 _ _ _ => "NOP19"
  | .nop20 _ _ _ => "NOP20"
  | .nop21 _ _ _ => "NOP21"
  | .nop22 _ _ _ => "NOP22"
  | .nop23 _ _ _ => "NOP23"
  | .load _ _ _ => "LOAD"
  | .loadp _ _ _ => "LOADP"
  | .nop26 _ _ _ => "NOP26"
  | .nop27 _ _ _ => "NOP27"
  | .nop28 _ _ _ => "NOP28"
  | .nop29 _ _ _ => "NOP29"
  | .nop30 _ _ _ => "NOP30"
  | .nop31 _ _ _ => "NOP31"
  | .beq _ _ _ => "BEQ"
  | .bne _ _ _ => "BNE"
  | .blt _ _ _ => "BLT"
  | .ble _ _ _ => "BLE"
  | .bgt _ _ _ => "BGT"
  | .bge _ _ _ => "BGE"
  | .call _ _ _ => "CALL"
  | .ret _ _ _ => "RET"
  | .nop40 _ _ _ => "NOP40"
  | .nop41 _ _ _ => "NOP41"
  | .nop42 _ _ _ => "NOP42"
  | .nop43 _ _ _ => "NOP43"
  | .nop44 _ _ _ => "NOP44"
  | .nop45 _ _ _ => "NOP45"
  | .nop46 _ _ _ => "NOP46"
  | .nop47 _ _ _ => "NOP47"
  | .nop48 _ _ _ => "NOP48"
  | .nop49 _ _ _ => "NOP49"
  | .nop50 _ _ _ => "NOP50"
  | .nop51 _ _ _ => "NOP51"
  | .nop52 _ _ _ => "NOP52"
  | .nop53 _ _ _ => "NOP53"
  | .nop54 _ _ _ => "NOP54"
  | .nop55 _ _ _ => "NOP55"
  | .nop56 _ _ _ => "NOP56"
  | .nop57 _ _ _ => "NOP57"
  | .nop58 _ _ _ => "NOP58"
  | .nop59 _ _ _ => "NOP59"
  | .nop60 _ _ _ => "NOP60"
  | .nop61 _ _ _ => "NOP61"
  | .nop62 _ _ _ => "NOP62"
  | .nop63rr _ _ _ => "NOP63"
  | .nop63ri _ _ _ => "NOP63"
  | .nop63ir _ _ _ => "NOP63"
  | .halt _ _ _ => "HALT"

/-- A row of spec/opcode_table.json: its mnemonic, and bits 31..24 of its mask and match. Bits 23..0 of both are zero
in every row, since no operand byte has a fixed bit (R82). -/
structure TableRow where
  mnemonic : String
  mask : Byte
  pattern : Byte
deriving DecidableEq, Repr

/-- A row fixed by its opclass alone: any immediate flags (R84). -/
def TableRow.ofClass (k : Byte) (mnemonic : String) : TableRow := ⟨mnemonic, 0x3F, k⟩

/-- The opcode byte `op` lies in the row. -/
def TableRow.Matches (row : TableRow) (op : Byte) : Bool := op &&& row.mask == row.pattern

/-- The rows of the operations (R84). -/
def operationRows : List TableRow :=
  [.ofClass 0 "OR", .ofClass 1 "AND", .ofClass 2 "ADD", .ofClass 3 "SUB", .ofClass 4 "NOT", .ofClass 5 "XOR", .ofClass 8 "SHL",
   .ofClass 9 "SHR", .ofClass 12 "MOD", .ofClass 13 "DIV", .ofClass 16 "STORE", .ofClass 24 "LOAD", .ofClass 25 "LOADP", .ofClass 32 "BEQ",
   .ofClass 33 "BNE", .ofClass 34 "BLT", .ofClass 35 "BLE", .ofClass 36 "BGT", .ofClass 37 "BGE", .ofClass 38 "CALL", .ofClass 39 "RET"]

/-- The rows of the no-op opclasses below 63 (R84, R131). -/
def nopRows : List TableRow :=
  [.ofClass 6 "NOP6", .ofClass 7 "NOP7", .ofClass 10 "NOP10", .ofClass 11 "NOP11", .ofClass 14 "NOP14", .ofClass 15 "NOP15", .ofClass 17 "NOP17",
   .ofClass 18 "NOP18", .ofClass 19 "NOP19", .ofClass 20 "NOP20", .ofClass 21 "NOP21", .ofClass 22 "NOP22", .ofClass 23 "NOP23", .ofClass 26 "NOP26",
   .ofClass 27 "NOP27", .ofClass 28 "NOP28", .ofClass 29 "NOP29", .ofClass 30 "NOP30", .ofClass 31 "NOP31", .ofClass 40 "NOP40", .ofClass 41 "NOP41",
   .ofClass 42 "NOP42", .ofClass 43 "NOP43", .ofClass 44 "NOP44", .ofClass 45 "NOP45", .ofClass 46 "NOP46", .ofClass 47 "NOP47", .ofClass 48 "NOP48",
   .ofClass 49 "NOP49", .ofClass 50 "NOP50", .ofClass 51 "NOP51", .ofClass 52 "NOP52", .ofClass 53 "NOP53", .ofClass 54 "NOP54", .ofClass 55 "NOP55",
   .ofClass 56 "NOP56", .ofClass 57 "NOP57", .ofClass 58 "NOP58", .ofClass 59 "NOP59", .ofClass 60 "NOP60", .ofClass 61 "NOP61", .ofClass 62 "NOP62"]

/-- The rows of opclass 63: one opcode byte each (R84, R86). -/
def class63Rows : List TableRow := [⟨"NOP63", 0xFF, 0x3F⟩, ⟨"NOP63", 0xFF, 0x7F⟩, ⟨"NOP63", 0xFF, 0xBF⟩, ⟨"HALT", 0xFF, 0xFF⟩]

/-- The rows of spec/opcode_table.json. -/
def opcodeTable : List TableRow := operationRows ++ nopRows ++ class63Rows

end Sys2Proof
end

