-- ==== Sys2Proof/Machine/State.lean ====
section
/-! DEFINITION. The state of the CORE as plain data (10_state.md R20 to R35, 20_memory.md R60, 70_reset_and_hazards.md
R270), and the reasons a step can stop. -/

namespace Sys2Proof.Machine

/-- A 256-byte array, as the list of its cells that differ from the empty byte 0: addresses strictly rising, no zero
byte listed. Its operations are in Machine/Memory.lean. -/
abbrev Memory := List Host.Cell

/-- The eight 8-bit registers (R20). `x5` is ADDR, `x6` the PC, and `x7` the storage cell behind the console port, which
no instruction reads or writes (R21, R25). -/
structure RegFile where
  x0 : Byte
  x1 : Byte
  x2 : Byte
  x3 : Byte
  x4 : Byte
  x5 : Byte
  x6 : Byte
  x7 : Byte
deriving DecidableEq, Repr

/-- The three run states (R27). -/
inductive RunState where
  | running
  | halted
  | faulted
deriving DecidableEq, Repr

/-- The sub-kinds of ArithmeticFault (60_exceptions.md R241, R242). -/
inductive ArithFault where
  | subUnderflow
  | shiftRange
  | divZero
  | modZero
deriving DecidableEq, Repr

/-- The sub-kinds of StackFault (R241, R243). -/
inductive StackFault where
  | overflow
  | underflow
deriving DecidableEq, Repr

/-- The sub-kinds of InputFault (R241, R244). -/
inductive InputFault where
  | malformed
  | endOfInput
deriving DecidableEq, Repr

/-- The sub-kinds of FetchFault (R241, R245). -/
inductive FetchFault where
  | misaligned
  | outOfRange
deriving DecidableEq, Repr

/-- The fault kinds of the hardware (R241). Raising one is a transition to Faulted (R250), not a stop of the model. -/
inductive FaultKind where
  | arithmetic (f : ArithFault)
  | stack (f : StackFault)
  | input (f : InputFault)
  | fetch (f : FetchFault)
  | registerIndex
deriving DecidableEq, Repr

/-- The fault record (R28, R241): what faulted and the value of `x[6]` at the fault, nothing else. -/
structure FaultRecord where
  kind : FaultKind
  pc : Byte
deriving DecidableEq, Repr

/-- One item of the console input (R33). `eof` stands for itself and every later item, since after an EOF every later
item is EOF too. -/
inductive InputItem where
  | byte (v : Byte)
  | bad
  | eof
deriving DecidableEq, Repr

/-- All state the spec gives the machine (10_state.md section 6). -/
structure State where
  /-- `x[0..7]` (R20 to R26). -/
  x : RegFile
  /-- Program storage `PROM[0..255]` (R60, R61). -/
  prom : Memory
  /-- Data storage `DATA[0..255]` (R60, R63). -/
  data : Memory
  /-- The call-stack entries `S[0..255]` (R29, R225). -/
  stack : Memory
  /-- The call-stack cursor `sp`, 0..256: how many return addresses are pushed (R29). -/
  sp : Nat
  /-- The run state (R27). -/
  run : RunState
  /-- The fault record, empty unless Faulted (R28). -/
  fault : Option FaultRecord
  /-- `OUT`, the bytes printed, oldest first (R34). -/
  out : List Byte
  /-- The items of `IN` not yet consumed, next first: the position in the host's input (R33). -/
  input : List InputItem
deriving DecidableEq, Repr

/-- Why no step is taken. None is a fault of the hardware: those are `FaultKind`s and are entered. -/
inductive Fault where
  /-- Raised by `step` in the Halted state: no further cycle executes (R27, R251). Safe. -/
  | halted
  /-- Raised by `step` in the Faulted state: no further cycle executes (R27, R251). Safe. -/
  | faulted
  /-- Raised by a read of register index 7 when the host has supplied no item: the machine waits, stuck inside
  `InRead()`, until one comes (R33, R134, R257; 93_implementation_defined.md K16). Safe. -/
  | awaitingInput
deriving DecidableEq, Repr

/-- Why the model gives an instruction no meaning. -/
inductive Refusal where
  /-- Raised by an arm of `exec` whose instruction has no meaning yet. No arm does. Safe. -/
  | notModelled (mnemonic : String)
deriving DecidableEq, Repr

/-- Every register is 0 after reset, the PC at the reset vector (R270). -/
def RegFile.reset : RegFile :=
  { x0 := 0, x1 := 0, x2 := 0, x3 := 0, x4 := 0, x5 := 0, x6 := Config.resetVector, x7 := 0 }

/-- The machine right after reset (R270), with no program loaded (PROM all zero) and no input supplied: the two are the
host's parameters, which `State.boot` takes. -/
def State.reset : State :=
  { x := .reset, prom := [], data := [], stack := [], sp := 0, run := .running, fault := none, out := [], input := [] }

end Sys2Proof.Machine
end

