-- ==== Sys2Proof/Machine/Memory.lean ====
section
/-! DEFINITION. The 256-byte arrays PROM, DATA and S: reading and writing one byte, and the canonical form
(20_memory.md R60, R62, R63, R66). -/

namespace Sys2Proof.Machine

/-- The byte at an address; a cell not listed is the empty byte. -/
def Memory.read : Memory → Nat → Byte
  | [], _ => Config.emptyByte
  | (b, w) :: m, a => if a = b then w else Memory.read m a

/-- The cell `(a, v)` at the front of `m`, unless it is empty. -/
def Memory.cons (a : Nat) (v : Byte) (m : Memory) : Memory := if v = Config.emptyByte then m else (a, v) :: m

/-- Writes one byte, keeping the canonical form. -/
def Memory.write : Memory → Nat → Byte → Memory
  | [], a, v => Memory.cons a v []
  | (b, w) :: m, a, v =>
    if a < b then Memory.cons a v ((b, w) :: m)
    else if a = b then Memory.cons a v m
    else (b, w) :: Memory.write m a v

/-- The canonical form from address `lo` on: addresses strictly rising and below 256, no empty byte listed. -/
def Memory.wfFrom : Nat → Memory → Bool
  | _, [] => true
  | lo, (b, w) :: m => decide (lo ≤ b) && decide (b < Config.memBytes) && decide (w ≠ Config.emptyByte) && Memory.wfFrom (b + 1) m

/-- The canonical form of a memory. -/
def Memory.wf (m : Memory) : Bool := Memory.wfFrom 0 m

/-- Writes bytes at consecutive addresses from `a` upward. -/
def Memory.writeBytes : Memory → Nat → List Byte → Memory
  | m, _, [] => m
  | m, a, v :: vs => Memory.writeBytes (Memory.write m a v) (a + 1) vs

end Sys2Proof.Machine
end

