-- ==== Sys2Proof/WellFormed.lean ====
section
/-! DEFINITION. What a loaded program must satisfy. Every term of `Instr` is an instruction (no encoding is illegal
and none traps, 30_encoding.md R87, R91; no operand field has a reserved bit, R82), so the checks are on programs and
images: they must fit program storage (00_scope.md R5, 70_reset_and_hazards.md R271). -/

namespace Sys2Proof

/-- A program as the loader hands it over: at most 64 instructions (R5, R69, R271). -/
def Program.wf (p : List Instr) : Bool := decide (p.length ≤ Config.maxInstrs)

/-- An image as the loader hands it over: at most 256 bytes; the bytes after it are the zero fill (R69, R271). -/
def Image.wf (image : List Byte) : Bool := decide (image.length ≤ Config.memBytes)

/-- The image of a program: its instructions' bytes in order from address 0 (R69, R271). -/
def Program.image (p : List Instr) : List Byte := p.flatMap encode

end Sys2Proof
end

