-- ==== Sys2Proof/Machine/Ops.lean ====
section
/-! DEFINITION. The named operations over the state: the register cells, the memory engine, the stack controller, the
console ports, taking a fault, the PC's advance, the fetch, and what the host does (load and input). -/

namespace Sys2Proof.Machine

/-! ## Register cells (10_state.md R20, R26) -/

/-- The storage cell `x[i]`. -/
def RegFile.get (x : RegFile) : Fin 8 → Byte
  | 0 => x.x0
  | 1 => x.x1
  | 2 => x.x2
  | 3 => x.x3
  | 4 => x.x4
  | 5 => x.x5
  | 6 => x.x6
  | 7 => x.x7

/-- `x[i] <- v`. -/
def RegFile.set (x : RegFile) (i : Fin 8) (v : Byte) : RegFile :=
  match i with
  | 0 => { x with x0 := v }
  | 1 => { x with x1 := v }
  | 2 => { x with x2 := v }
  | 3 => { x with x3 := v }
  | 4 => { x with x4 := v }
  | 5 => { x with x5 := v }
  | 6 => { x with x6 := v }
  | 7 => { x with x7 := v }

/-- `x[i]` of a state. -/
def State.reg (s : State) (i : Fin 8) : Byte := s.x.get i

/-- `x[i] <- v` on a state. -/
def State.setReg (s : State) (i : Fin 8) (v : Byte) : State := { s with x := s.x.set i v }

/-- The PC port: `pc` is `x[6]` (R26, R39). -/
def State.pc (s : State) : Byte := s.reg 6

/-- `pc <- t`. -/
def State.setPc (s : State) (t : Byte) : State := s.setReg 6 t

/-- The ADDR port: `addr` is `x[5]` (R22, R39, R64). -/
def State.addr (s : State) : Byte := s.reg 5

/-! ## The memory read-write engine (10_state.md R41, 20_memory.md R62, R63) -/

/-- `MemRead(PROG, a, 1)`. -/
def State.loadProgram (s : State) (a : Byte) : Byte := s.prom.read a.toNat

/-- `MemRead(DATA, a, 1)`. -/
def State.loadData (s : State) (a : Byte) : Byte := s.data.read a.toNat

/-- `MemWrite(DATA, a, 1, v)`. -/
def State.storeData (s : State) (a v : Byte) : State := { s with data := s.data.write a.toNat v }

/-! ## Taking a fault (60_exceptions.md R250) -/

/-- Fault entry: the run state becomes Faulted and the record is set to the kind and the present PC. Nothing else
changes, and control goes nowhere. There is no return from a fault (R251). -/
def State.enterFaulted (s : State) (k : FaultKind) : State :=
  { s with run := .faulted, fault := some { kind := k, pc := s.pc } }

/-- The code of each fault kind in the fault table (R241). -/
def FaultKind.code : FaultKind → Nat
  | .arithmetic .subUnderflow => 1
  | .arithmetic .shiftRange => 2
  | .arithmetic .divZero => 3
  | .arithmetic .modZero => 4
  | .stack .overflow => 5
  | .stack .underflow => 6
  | .input .malformed => 7
  | .input .endOfInput => 8
  | .fetch .misaligned => 9
  | .fetch .outOfRange => 10
  | .registerIndex => 11

/-- HALT's whole effect (40_cycle.md R122, R132). -/
def haltRun (s : State) : State := { s with run := .halted }

/-- What a part of a cycle gives: a value and the state after it, a fault raised in the state it is raised in, or a wait
for the host's input. -/
inductive Result (α : Type) where
  | ok (v : α) (s : State)
  | raise (k : FaultKind) (s : State)
  | wait
deriving DecidableEq, Repr

/-- The next part of a cycle; a fault or a wait ends the cycle at once (R250). -/
def Result.andThen {α β : Type} (r : Result α) (f : α → State → Result β) : Result β :=
  match r with
  | .ok v s => f v s
  | .raise k s => .raise k s
  | .wait => .wait

/-- The end of a cycle: the state reached, with the fault entered if one was raised; no step is taken while the machine
waits. -/
def Result.finish (r : Result Unit) : Host.Outcome State Fault Refusal :=
  match r with
  | .ok _ s => .next s
  | .raise k s => .next (s.enterFaulted k)
  | .wait => .fault .awaitingInput

/-! ## The console ports (10_state.md R33, R34) -/

/-- `InRead()`: consumes the next item. An `eof` stays, since every later item is EOF too. With no item the machine
waits. -/
def inRead (s : State) : Result Byte :=
  match s.input with
  | [] => .wait
  | .byte v :: rest => .ok v { s with input := rest }
  | .bad :: rest => .raise (.input .malformed) { s with input := rest }
  | .eof :: _ => .raise (.input .endOfInput) s

/-- `OutWrite(v)`. -/
def outWrite (v : Byte) (s : State) : State := { s with out := s.out ++ [v] }

/-! ## The call-return stack controller (44_call_return.md R220, R221) -/

/-- `Push(v)`: with 256 entries pushed it faults and changes nothing. -/
def push (v : Byte) (s : State) : Result Unit :=
  if s.sp < Config.stackDepth then .ok () { s with stack := s.stack.write s.sp v, sp := s.sp + 1 }
  else .raise (.stack .overflow) s

/-- `Pop()`: on an empty stack it faults and changes nothing. The popped entry stays in `S`. -/
def pop (s : State) : Result Byte :=
  if s.sp = 0 then .raise (.stack .underflow) s
  else .ok (s.stack.read (s.sp - 1)) { s with sp := s.sp - 1 }

/-! ## The PC's advance and the fetch (40_cycle.md R121, R130) -/

/-- `Advance()`: the PC plus 4, computed in 9 bits; past 255 it faults and leaves the PC (R130). -/
def advance (s : State) : Result Unit :=
  let n := s.pc.setWidth 9 + 4#9
  if n ≤ 255#9 then .ok () (s.setPc (n.setWidth 8)) else .raise (.fetch .outOfRange) s

/-- A PC from which an instruction is fetched: a multiple of 4 (R26, R121). -/
def aligned (p : Byte) : Bool := p.toNat % Config.instrBytes == 0

/-- The instruction whose four bytes lie at the PC, opcode first: `MemRead(PROG, p, 4)` decoded (R62, R65). -/
def State.instrAtPc (s : State) : Instr :=
  decode (s.prom.read s.pc.toNat) (s.prom.read (s.pc.toNat + 1)) (s.prom.read (s.pc.toNat + 2))
    (s.prom.read (s.pc.toNat + 3))

/-- The fetch and decode of a cycle: at a misaligned PC it faults and nothing is fetched (R121). -/
def fetchInstr (s : State) : Except FaultKind Instr :=
  if aligned s.pc then .ok s.instrAtPc else .error (.fetch .misaligned)

/-- Why no cycle executes: the machine is Halted or Faulted, both terminal (R27, R251). -/
def stopReason (s : State) : Option Fault :=
  match s.run with
  | .running => none
  | .halted => some .halted
  | .faulted => some .faulted

/-! ## What the host does (10_state.md R35) -/

/-- Reset with the loader's image and the host's input (R270, R271): the reset state with PROM the image from address 0,
zero after it. -/
def State.boot (image : List Byte) (input : List InputItem) : State :=
  { State.reset with prom := Memory.writeBytes [] 0 (image.take Config.memBytes), input := input }

/-- The host supplies the next item of `IN` (R35). -/
def State.supplyInput (s : State) (item : InputItem) : State := { s with input := s.input ++ [item] }

/-- The image with the four bytes of a word at the PC, where the next fetch reads (R83, R65). -/
def State.placeWord (s : State) (w : BitVec 32) : State :=
  { s with prom := s.prom.writeBytes s.pc.toNat (wordBytes w) }

end Sys2Proof.Machine
end

