-- ==== Sys2Proof/Machine/Flags.lean ====
section
/-! DEFINITION. The CORE has no flags (10_state.md R30): no instruction writes one and a branch compares its operands
directly. Here stand the computations that take the place of flags: the ALU's results and fault conditions (41_alu.md
R151) and the six relations (42_branch.md R180). -/

namespace Sys2Proof.Machine

/-- `ALU(f, L, R)` (R151): a byte or an ArithmeticFault. Only `add` wraps (R162). -/
def alu (f : AluOp) (L R : Byte) : Except ArithFault Byte :=
  match f with
  | .or => .ok (L ||| R)
  | .and => .ok (L &&& R)
  | .add => .ok (L + R)
  | .sub => if L < R then .error .subUnderflow else .ok (L - R)
  | .not => .ok (~~~ L)
  | .xor => .ok (L ^^^ R)
  | .leftShift => if 8 ≤ R.toNat then .error .shiftRange else .ok (L <<< R.toNat)
  | .rightShift => if 8 ≤ R.toNat then .error .shiftRange else .ok (L >>> R.toNat)
  | .mod => if R = 0 then .error .modZero else .ok (L % R)
  | .div => if R = 0 then .error .divZero else .ok (L / R)

/-- The ALU inside a cycle: its fault ends the cycle before anything is written (R150, 40_cycle.md R133). -/
def aluResult (f : AluOp) (L R : Byte) (s : State) : Result Byte :=
  match alu f L R with
  | .ok v => .ok v s
  | .error e => .raise (.arithmetic e) s

/-- `Holds(q, L, R)` (R180): the six relations on unsigned bytes. -/
def holds (q : Rel) (L R : Byte) : Bool :=
  match q with
  | .equal => L == R
  | .notEqual => L != R
  | .less => decide (L < R)
  | .lessEqual => decide (L ≤ R)
  | .greater => decide (R < L)
  | .greaterEqual => decide (R ≤ L)

end Sys2Proof.Machine
end

