-- ==== Sys2Proof/Machine/Operands.lean ====
section
/-! DEFINITION. Operands and destinations: what a register index byte names, resolving an operand, and writing a result
back (10_state.md R23, R24, 40_cycle.md R124 to R130). -/

namespace Sys2Proof.Machine

/-- What a register index byte names (R23, R24): a storage cell, the console port, or nothing. -/
inductive RegSel where
  | cell (i : Fin 8)
  | io
  | invalid
deriving DecidableEq, Repr

/-- Index 7 is the console, 0..6 a cell, 8..255 no register (R23, R24). -/
def regSel (i : Byte) : RegSel :=
  if i = Config.ioIndex then .io
  else if h : i.toNat < 8 then .cell ⟨i.toNat, h⟩
  else .invalid

/-- `ReadReg(i)` (R23). -/
def readReg (i : Byte) (s : State) : Result Byte :=
  match regSel i with
  | .io => inRead s
  | .cell j => .ok (s.reg j) s
  | .invalid => .raise .registerIndex s

/-- `WriteReg(i, v)` (R24). -/
def writeReg (i v : Byte) (s : State) : Result Unit :=
  match regSel i with
  | .io => .ok () (outWrite v s)
  | .cell j => .ok () (s.setReg j v)
  | .invalid => .raise .registerIndex s

/-- `Resolve` (40_cycle.md R120, R124): the literal byte, or the register read. -/
def resolve (o : Operand) (s : State) : Result Byte :=
  match o with
  | .imm v => .ok v s
  | .reg i => readReg i s

/-- Both operands, left before right, each by its own index (R124, R125). -/
def resolveBoth (l r : Operand) (s : State) : Result (Byte × Byte) :=
  (resolve l s).andThen fun L s => (resolve r s).andThen fun R s => .ok (L, R) s

/-- A result written back to destination `c`, and the PC's update: no advance when the destination is the PC
(R127, R129). -/
def writeBack (c v : Byte) (s : State) : Result Unit :=
  (writeReg c v s).andThen fun _ s => if c = Config.pcIndex then .ok () s else advance s

end Sys2Proof.Machine
end

