-- ==== Sys2Proof/Machine/Alu.lean ====
section
/-! DEFINITION. The ten ALU instructions (41_alu.md R150 to R162). -/

namespace Sys2Proof.Machine

/-- The body of every ALU instruction (R150): resolve both operands, compute, write the result back, and advance the
PC unless the destination is the PC. The operation's fault comes before the destination's (60_exceptions.md R248). -/
def aluInstr (f : AluOp) (l r : Operand) (c : Byte) (s : State) : Host.Outcome State Fault Refusal :=
  ((resolveBoth l r s).andThen fun v s => (aluResult f v.1 v.2 s).andThen fun res s => writeBack c res s).finish

/-- OR (R152). -/
def execOr (l r : Operand) (c : Byte) (s : State) : Host.Outcome State Fault Refusal := aluInstr .or l r c s

/-- AND (R153). -/
def execAnd (l r : Operand) (c : Byte) (s : State) : Host.Outcome State Fault Refusal := aluInstr .and l r c s

/-- ADD (R154). -/
def execAdd (l r : Operand) (c : Byte) (s : State) : Host.Outcome State Fault Refusal := aluInstr .add l r c s

/-- SUB (R155). -/
def execSub (l r : Operand) (c : Byte) (s : State) : Host.Outcome State Fault Refusal := aluInstr .sub l r c s

/-- NOT (R156). -/
def execNot (l r : Operand) (c : Byte) (s : State) : Host.Outcome State Fault Refusal := aluInstr .not l r c s

/-- XOR (R157). -/
def execXor (l r : Operand) (c : Byte) (s : State) : Host.Outcome State Fault Refusal := aluInstr .xor l r c s

/-- SHL (R158). -/
def execShl (l r : Operand) (c : Byte) (s : State) : Host.Outcome State Fault Refusal := aluInstr .leftShift l r c s

/-- SHR (R159). -/
def execShr (l r : Operand) (c : Byte) (s : State) : Host.Outcome State Fault Refusal := aluInstr .rightShift l r c s

/-- MOD (R160). -/
def execMod (l r : Operand) (c : Byte) (s : State) : Host.Outcome State Fault Refusal := aluInstr .mod l r c s

/-- DIV (R161). -/
def execDiv (l r : Operand) (c : Byte) (s : State) : Host.Outcome State Fault Refusal := aluInstr .div l r c s

end Sys2Proof.Machine
end

