-- ==== Sys2Proof/Machine/Branch.lean ====
section
/-! DEFINITION. The six branch instructions (42_branch.md R181 to R187). -/

namespace Sys2Proof.Machine

/-- The body of every branch (R181): resolve both operands; if the relation holds the PC becomes the absolute address
`c`, with no advance, else the PC advances. -/
def branchInstr (q : Rel) (l r : Operand) (c : Byte) (s : State) : Host.Outcome State Fault Refusal :=
  ((resolveBoth l r s).andThen fun v s => if holds q v.1 v.2 then .ok () (s.setPc c) else advance s).finish

/-- BEQ (R182). -/
def execBeq (l r : Operand) (c : Byte) (s : State) : Host.Outcome State Fault Refusal := branchInstr .equal l r c s

/-- BNE (R183). -/
def execBne (l r : Operand) (c : Byte) (s : State) : Host.Outcome State Fault Refusal := branchInstr .notEqual l r c s

/-- BLT (R184). -/
def execBlt (l r : Operand) (c : Byte) (s : State) : Host.Outcome State Fault Refusal := branchInstr .less l r c s

/-- BLE (R185). -/
def execBle (l r : Operand) (c : Byte) (s : State) : Host.Outcome State Fault Refusal := branchInstr .lessEqual l r c s

/-- BGT (R186). -/
def execBgt (l r : Operand) (c : Byte) (s : State) : Host.Outcome State Fault Refusal := branchInstr .greater l r c s

/-- BGE (R187). -/
def execBge (l r : Operand) (c : Byte) (s : State) : Host.Outcome State Fault Refusal := branchInstr .greaterEqual l r c s

end Sys2Proof.Machine
end

