-- ==== Sys2Proof/Machine/CallReturn.lean ====
section
/-! DEFINITION. Call and return (44_call_return.md R222, R223). -/

namespace Sys2Proof.Machine

/-- CALL (R222): both operands are resolved and unused; the CALL's own address is pushed and the PC becomes the absolute
address `c`, with no advance. -/
def execCall (l r : Operand) (c : Byte) (s : State) : Host.Outcome State Fault Refusal :=
  ((resolveBoth l r s).andThen fun _ s => (push s.pc s).andThen fun _ s => .ok () (s.setPc c)).finish

/-- RET (R223, R123): no operand is resolved; the popped address becomes the PC, which then advances past the CALL. -/
def execRet (_l _r : Operand) (_c : Byte) (s : State) : Host.Outcome State Fault Refusal :=
  ((pop s).andThen fun t s => advance (s.setPc t)).finish

end Sys2Proof.Machine
end

