-- ==== Sys2Proof/Machine/MemoryOps.lean ====
section
/-! DEFINITION. The three memory instructions (43_memory_ops.md R200 to R203). Each address is ADDR, `x[5]`: the only
addressing mode (R200, R64). -/

namespace Sys2Proof.Machine

/-- STORE (R201): both operands are resolved, the left one is stored at DATA[ADDR], and the PC advances. The byte `c`
is not used (R89, R95). -/
def execStore (l r : Operand) (_c : Byte) (s : State) : Host.Outcome State Fault Refusal :=
  ((resolveBoth l r s).andThen fun v s => advance (s.storeData s.addr v.1)).finish

/-- LOAD (R202): both operands are resolved and unused; the byte at DATA[ADDR] is written back. -/
def execLoad (l r : Operand) (c : Byte) (s : State) : Host.Outcome State Fault Refusal :=
  ((resolveBoth l r s).andThen fun _ s => writeBack c (s.loadData s.addr) s).finish

/-- LOADP (R203): both operands are resolved and unused; the byte at PROM[ADDR] is written back. -/
def execLoadp (l r : Operand) (c : Byte) (s : State) : Host.Outcome State Fault Refusal :=
  ((resolveBoth l r s).andThen fun _ s => writeBack c (s.loadProgram s.addr) s).finish

end Sys2Proof.Machine
end

