-- ==== Sys2Proof/Machine/Sequencer.lean ====
section
/-! DEFINITION. The instructions of the sequencer alone: the no-ops (40_cycle.md R131) and HALT (R132). -/

namespace Sys2Proof.Machine

/-- The body of every no-op: both operands are resolved, their values unused, then the PC advances (R131). The byte
`c` is not used (R94). -/
def nopInstr (l r : Operand) (s : State) : Host.Outcome State Fault Refusal :=
  ((resolveBoth l r s).andThen fun _ s => advance s).finish

/-- NOP6 (R131). -/
def execNop6 (l r : Operand) (_c : Byte) (s : State) : Host.Outcome State Fault Refusal := nopInstr l r s

/-- NOP7 (R131). -/
def execNop7 (l r : Operand) (_c : Byte) (s : State) : Host.Outcome State Fault Refusal := nopInstr l r s

/-- NOP10 (R131). -/
def execNop10 (l r : Operand) (_c : Byte) (s : State) : Host.Outcome State Fault Refusal := nopInstr l r s

/-- NOP11 (R131). -/
def execNop11 (l r : Operand) (_c : Byte) (s : State) : Host.Outcome State Fault Refusal := nopInstr l r s

/-- NOP14 (R131). -/
def execNop14 (l r : Operand) (_c : Byte) (s : State) : Host.Outcome State Fault Refusal := nopInstr l r s

/-- NOP15 (R131). -/
def execNop15 (l r : Operand) (_c : Byte) (s : State) : Host.Outcome State Fault Refusal := nopInstr l r s

/-- NOP17 (R131). -/
def execNop17 (l r : Operand) (_c : Byte) (s : State) : Host.Outcome State Fault Refusal := nopInstr l r s

/-- NOP18 (R131). -/
def execNop18 (l r : Operand) (_c : Byte) (s : State) : Host.Outcome State Fault Refusal := nopInstr l r s

/-- NOP19 (R131). -/
def execNop19 (l r : Operand) (_c : Byte) (s : State) : Host.Outcome State Fault Refusal := nopInstr l r s

/-- NOP20 (R131). -/
def execNop20 (l r : Operand) (_c : Byte) (s : State) : Host.Outcome State Fault Refusal := nopInstr l r s

/-- NOP21 (R131). -/
def execNop21 (l r : Operand) (_c : Byte) (s : State) : Host.Outcome State Fault Refusal := nopInstr l r s

/-- NOP22 (R131). -/
def execNop22 (l r : Operand) (_c : Byte) (s : State) : Host.Outcome State Fault Refusal := nopInstr l r s

/-- NOP23 (R131). -/
def execNop23 (l r : Operand) (_c : Byte) (s : State) : Host.Outcome State Fault Refusal := nopInstr l r s

/-- NOP26 (R131). -/
def execNop26 (l r : Operand) (_c : Byte) (s : State) : Host.Outcome State Fault Refusal := nopInstr l r s

/-- NOP27 (R131). -/
def execNop27 (l r : Operand) (_c : Byte) (s : State) : Host.Outcome State Fault Refusal := nopInstr l r s

/-- NOP28 (R131). -/
def execNop28 (l r : Operand) (_c : Byte) (s : State) : Host.Outcome State Fault Refusal := nopInstr l r s

/-- NOP29 (R131). -/
def execNop29 (l r : Operand) (_c : Byte) (s : State) : Host.Outcome State Fault Refusal := nopInstr l r s

/-- NOP30 (R131). -/
def execNop30 (l r : Operand) (_c : Byte) (s : State) : Host.Outcome State Fault Refusal := nopInstr l r s

/-- NOP31 (R131). -/
def execNop31 (l r : Operand) (_c : Byte) (s : State) : Host.Outcome State Fault Refusal := nopInstr l r s

/-- NOP40 (R131). -/
def execNop40 (l r : Operand) (_c : Byte) (s : State) : Host.Outcome State Fault Refusal := nopInstr l r s

/-- NOP41 (R131). -/
def execNop41 (l r : Operand) (_c : Byte) (s : State) : Host.Outcome State Fault Refusal := nopInstr l r s

/-- NOP42 (R131). -/
def execNop42 (l r : Operand) (_c : Byte) (s : State) : Host.Outcome State Fault Refusal := nopInstr l r s

/-- NOP43 (R131). -/
def execNop43 (l r : Operand) (_c : Byte) (s : State) : Host.Outcome State Fault Refusal := nopInstr l r s

/-- NOP44 (R131). -/
def execNop44 (l r : Operand) (_c : Byte) (s : State) : Host.Outcome State Fault Refusal := nopInstr l r s

/-- NOP45 (R131). -/
def execNop45 (l r : Operand) (_c : Byte) (s : State) : Host.Outcome State Fault Refusal := nopInstr l r s

/-- NOP46 (R131). -/
def execNop46 (l r : Operand) (_c : Byte) (s : State) : Host.Outcome State Fault Refusal := nopInstr l r s

/-- NOP47 (R131). -/
def execNop47 (l r : Operand) (_c : Byte) (s : State) : Host.Outcome State Fault Refusal := nopInstr l r s

/-- NOP48 (R131). -/
def execNop48 (l r : Operand) (_c : Byte) (s : State) : Host.Outcome State Fault Refusal := nopInstr l r s

/-- NOP49 (R131). -/
def execNop49 (l r : Operand) (_c : Byte) (s : State) : Host.Outcome State Fault Refusal := nopInstr l r s

/-- NOP50 (R131). -/
def execNop50 (l r : Operand) (_c : Byte) (s : State) : Host.Outcome State Fault Refusal := nopInstr l r s

/-- NOP51 (R131). -/
def execNop51 (l r : Operand) (_c : Byte) (s : State) : Host.Outcome State Fault Refusal := nopInstr l r s

/-- NOP52 (R131). -/
def execNop52 (l r : Operand) (_c : Byte) (s : State) : Host.Outcome State Fault Refusal := nopInstr l r s

/-- NOP53 (R131). -/
def execNop53 (l r : Operand) (_c : Byte) (s : State) : Host.Outcome State Fault Refusal := nopInstr l r s

/-- NOP54 (R131). -/
def execNop54 (l r : Operand) (_c : Byte) (s : State) : Host.Outcome State Fault Refusal := nopInstr l r s

/-- NOP55 (R131). -/
def execNop55 (l r : Operand) (_c : Byte) (s : State) : Host.Outcome State Fault Refusal := nopInstr l r s

/-- NOP56 (R131). -/
def execNop56 (l r : Operand) (_c : Byte) (s : State) : Host.Outcome State Fault Refusal := nopInstr l r s

/-- NOP57 (R131). -/
def execNop57 (l r : Operand) (_c : Byte) (s : State) : Host.Outcome State Fault Refusal := nopInstr l r s

/-- NOP58 (R131). -/
def execNop58 (l r : Operand) (_c : Byte) (s : State) : Host.Outcome State Fault Refusal := nopInstr l r s

/-- NOP59 (R131). -/
def execNop59 (l r : Operand) (_c : Byte) (s : State) : Host.Outcome State Fault Refusal := nopInstr l r s

/-- NOP60 (R131). -/
def execNop60 (l r : Operand) (_c : Byte) (s : State) : Host.Outcome State Fault Refusal := nopInstr l r s

/-- NOP61 (R131). -/
def execNop61 (l r : Operand) (_c : Byte) (s : State) : Host.Outcome State Fault Refusal := nopInstr l r s

/-- NOP62 (R131). -/
def execNop62 (l r : Operand) (_c : Byte) (s : State) : Host.Outcome State Fault Refusal := nopInstr l r s

/-- NOP63 of opcode byte 0x3F (R131, R84). -/
def execNop63rr (a b _c : Byte) (s : State) : Host.Outcome State Fault Refusal :=
  nopInstr (.reg a) (.reg b) s

/-- NOP63 of opcode byte 0x7F (R131, R84). -/
def execNop63ri (a b _c : Byte) (s : State) : Host.Outcome State Fault Refusal :=
  nopInstr (.reg a) (.imm b) s

/-- NOP63 of opcode byte 0xBF (R131, R84). -/
def execNop63ir (a b _c : Byte) (s : State) : Host.Outcome State Fault Refusal :=
  nopInstr (.imm a) (.reg b) s

/-- HALT (R132, R122): the run state becomes Halted and nothing else changes; no operand is resolved, and the PC keeps
the address of the HALT. -/
def execHalt (_a _b _c : Byte) (s : State) : Host.Outcome State Fault Refusal := .next (haltRun s)

end Sys2Proof.Machine
end

