-- ==== Sys2Proof/Machine/Dispatch.lean ====
section
/-! DEFINITION. One arm per constructor of `Instr`, each a direct call of that instruction's meaning. -/

namespace Sys2Proof.Machine

def exec (i : Instr) (s : State) : Host.Outcome State Fault Refusal :=
  match i with
  | .or l r c => Sys2Proof.Machine.execOr l r c s
  | .and l r c => Sys2Proof.Machine.execAnd l r c s
  | .add l r c => Sys2Proof.Machine.execAdd l r c s
  | .sub l r c => Sys2Proof.Machine.execSub l r c s
  | .not l r c => Sys2Proof.Machine.execNot l r c s
  | .xor l r c => Sys2Proof.Machine.execXor l r c s
  | .shl l r c => Sys2Proof.Machine.execShl l r c s
  | .shr l r c => Sys2Proof.Machine.execShr l r c s
  | .mod l r c => Sys2Proof.Machine.execMod l r c s
  | .div l r c => Sys2Proof.Machine.execDiv l r c s
  | .store l r c => Sys2Proof.Machine.execStore l r c s
  | .load l r c => Sys2Proof.Machine.execLoad l r c s
  | .loadp l r c => Sys2Proof.Machine.execLoadp l r c s
  | .beq l r c => Sys2Proof.Machine.execBeq l r c s
  | .bne l r c => Sys2Proof.Machine.execBne l r c s
  | .blt l r c => Sys2Proof.Machine.execBlt l r c s
  | .ble l r c => Sys2Proof.Machine.execBle l r c s
  | .bgt l r c => Sys2Proof.Machine.execBgt l r c s
  | .bge l r c => Sys2Proof.Machine.execBge l r c s
  | .call l r c => Sys2Proof.Machine.execCall l r c s
  | .ret l r c => Sys2Proof.Machine.execRet l r c s
  | .nop6 l r c => Sys2Proof.Machine.execNop6 l r c s
  | .nop7 l r c => Sys2Proof.Machine.execNop7 l r c s
  | .nop10 l r c => Sys2Proof.Machine.execNop10 l r c s
  | .nop11 l r c => Sys2Proof.Machine.execNop11 l r c s
  | .nop14 l r c => Sys2Proof.Machine.execNop14 l r c s
  | .nop15 l r c => Sys2Proof.Machine.execNop15 l r c s
  | .nop17 l r c => Sys2Proof.Machine.execNop17 l r c s
  | .nop18 l r c => Sys2Proof.Machine.execNop18 l r c s
  | .nop19 l r c => Sys2Proof.Machine.execNop19 l r c s
  | .nop20 l r c => Sys2Proof.Machine.execNop20 l r c s
  | .nop21 l r c => Sys2Proof.Machine.execNop21 l r c s
  | .nop22 l r c => Sys2Proof.Machine.execNop22 l r c s
  | .nop23 l r c => Sys2Proof.Machine.execNop23 l r c s
  | .nop26 l r c => Sys2Proof.Machine.execNop26 l r c s
  | .nop27 l r c => Sys2Proof.Machine.execNop27 l r c s
  | .nop28 l r c => Sys2Proof.Machine.execNop28 l r c s
  | .nop29 l r c => Sys2Proof.Machine.execNop29 l r c s
  | .nop30 l r c => Sys2Proof.Machine.execNop30 l r c s
  | .nop31 l r c => Sys2Proof.Machine.execNop31 l r c s
  | .nop40 l r c => Sys2Proof.Machine.execNop40 l r c s
  | .nop41 l r c => Sys2Proof.Machine.execNop41 l r c s
  | .nop42 l r c => Sys2Proof.Machine.execNop42 l r c s
  | .nop43 l r c => Sys2Proof.Machine.execNop43 l r c s
  | .nop44 l r c => Sys2Proof.Machine.execNop44 l r c s
  | .nop45 l r c => Sys2Proof.Machine.execNop45 l r c s
  | .nop46 l r c => Sys2Proof.Machine.execNop46 l r c s
  | .nop47 l r c => Sys2Proof.Machine.execNop47 l r c s
  | .nop48 l r c => Sys2Proof.Machine.execNop48 l r c s
  | .nop49 l r c => Sys2Proof.Machine.execNop49 l r c s
  | .nop50 l r c => Sys2Proof.Machine.execNop50 l r c s
  | .nop51 l r c => Sys2Proof.Machine.execNop51 l r c s
  | .nop52 l r c => Sys2Proof.Machine.execNop52 l r c s
  | .nop53 l r c => Sys2Proof.Machine.execNop53 l r c s
  | .nop54 l r c => Sys2Proof.Machine.execNop54 l r c s
  | .nop55 l r c => Sys2Proof.Machine.execNop55 l r c s
  | .nop56 l r c => Sys2Proof.Machine.execNop56 l r c s
  | .nop57 l r c => Sys2Proof.Machine.execNop57 l r c s
  | .nop58 l r c => Sys2Proof.Machine.execNop58 l r c s
  | .nop59 l r c => Sys2Proof.Machine.execNop59 l r c s
  | .nop60 l r c => Sys2Proof.Machine.execNop60 l r c s
  | .nop61 l r c => Sys2Proof.Machine.execNop61 l r c s
  | .nop62 l r c => Sys2Proof.Machine.execNop62 l r c s
  | .nop63rr a b c => Sys2Proof.Machine.execNop63rr a b c s
  | .nop63ri a b c => Sys2Proof.Machine.execNop63ri a b c s
  | .nop63ir a b c => Sys2Proof.Machine.execNop63ir a b c s
  | .halt a b c => Sys2Proof.Machine.execHalt a b c s

end Sys2Proof.Machine
end

