-- ==== Sys2Proof/Machine/Step.lean ====
section
/-! DEFINITION. One cycle of the sequencer (40_cycle.md R120, R136), and placing one instruction where the next fetch
reads. -/

namespace Sys2Proof.Machine

/-- One cycle: it runs only while the machine is Running, fetches and decodes the instruction at the PC, and executes it
whole (R120, R121, R136). -/
def step (s : State) : Host.Outcome State Fault Refusal :=
  match stopReason s with
  | some r => .fault r
  | none =>
    match fetchInstr s with
    | .ok i => exec i s
    | .error k => .next (s.enterFaulted k)

/-- `s` with the word's four bytes in PROM at the PC: the stand-in for the host's load (70_reset_and_hazards.md R271). -/
def State.withFetchWord (s : State) (nbits w : Nat) : State := s.placeWord (tableWord nbits w)

end Sys2Proof.Machine
end

