-- ==== Sys2Proof/Machine/Blocks.lean ====
section
/-! DEFINITION. The blocks of the CORE by their logical interfaces (10_state.md R36 to R42): the decoder's ControlSignals
record and its wires, the ALU's and the branch evaluator's ports, and the sequencer's cycle written over them as
40_cycle.md R120 writes it. The register file, the stack controller and the memory engine (R39, R40, R41) are the
operations of Ops.lean and Operands.lean. `step` runs instruction by instruction; `cycle` runs signal by signal. -/

namespace Sys2Proof.Machine

/-- The decoder's output record (30_encoding.md R88). -/
structure ControlSignals where
  aluOperation : Option AluOp
  readsProgramMemory : Bool
  readsDataMemory : Bool
  writesToDataMemory : Bool
  isCall : Bool
  isReturn : Bool
  branchCondition : Option Rel
  leftOperand : Operand
  rightOperand : Operand
  destination : Option Byte
  controlFlowRedirected : Bool
deriving DecidableEq, Repr

/-- `alu_operation` of an opclass (R88). -/
def aluOperationOf (k : BitVec 6) : Option AluOp :=
  match k.toNat with
  | 0 => some .or
  | 1 => some .and
  | 2 => some .add
  | 3 => some .sub
  | 4 => some .not
  | 5 => some .xor
  | 8 => some .leftShift
  | 9 => some .rightShift
  | 12 => some .mod
  | 13 => some .div
  | _ => none

/-- `branch_condition` of an opclass (R88). -/
def branchConditionOf (k : BitVec 6) : Option Rel :=
  match k.toNat with
  | 32 => some .equal
  | 33 => some .notEqual
  | 34 => some .less
  | 35 => some .lessEqual
  | 36 => some .greater
  | 37 => some .greaterEqual
  | _ => none

/-- `Decode(op, a, b, c)` (R88): total, no state, no fault (R91). -/
def controlSignals (op a b c : Byte) : ControlSignals :=
  let k := opclass op
  let dest : Option Byte := if k == 39 || k == 16 then none else some c
  let produces := (aluOperationOf k).isSome || k == 25 || k == 24
  { aluOperation := aluOperationOf k
    readsProgramMemory := k == 25
    readsDataMemory := k == 24
    writesToDataMemory := k == 16
    isCall := k == 38
    isReturn := k == 39
    branchCondition := branchConditionOf k
    leftOperand := .ofFlag (immLeft op) a
    rightOperand := .ofFlag (immRight op) b
    destination := dest
    controlFlowRedirected := k == 38 || (branchConditionOf k).isSome || (produces && dest == some Config.pcIndex) }

/-- The internal code of an ALU operation (R100). -/
def aluCode : AluOp → BitVec 4
  | .or => 0
  | .and => 1
  | .add => 2
  | .sub => 3
  | .not => 4
  | .xor => 5
  | .leftShift => 8
  | .rightShift => 9
  | .mod => 12
  | .div => 13

/-- The internal code of a relation (R100). -/
def relCode : Rel → BitVec 3
  | .equal => 0
  | .notEqual => 1
  | .less => 2
  | .lessEqual => 3
  | .greater => 4
  | .greaterEqual => 5

/-- The operation of an internal code; the other codes are no operation, and the decoder never sends one. -/
def aluOfCode (code : BitVec 4) : Option AluOp :=
  [AluOp.or, .and, .add, .sub, .not, .xor, .leftShift, .rightShift, .mod, .div].find? fun f => aluCode f == code

/-- The relation of an internal code; the other codes are no relation, and the decoder never sends one. -/
def relOfCode (code : BitVec 3) : Option Rel :=
  [Rel.equal, .notEqual, .less, .lessEqual, .greater, .greaterEqual].find? fun q => relCode q == code

/-- The decoder's wires (R36). -/
structure DecoderWires where
  aluValid : Bool
  aluOp : BitVec 4
  rdProg : Bool
  rdData : Bool
  wrData : Bool
  isCall : Bool
  isRet : Bool
  brValid : Bool
  brCond : BitVec 3
  lVal : Byte
  lImm : Bool
  rVal : Byte
  rImm : Bool
  dstValid : Bool
  dst : Byte
  cfRedirect : Bool
deriving DecidableEq, Repr

/-- The wires for four fetched bytes (R36): `alu_op = op[3:0]`, `br_cond = op[2:0]`. `dst` is the destination byte `c` when
there is a destination (R89). With `dst_valid = 0` (STORE, RET) the spec gives `dst` no value; that it carries `c` then too is
the model's (DESIGN CHOICE, notes/assumptions/21.md). -/
def decoderWires (op a b c : Byte) : DecoderWires :=
  let g := controlSignals op a b c
  { aluValid := g.aluOperation.isSome
    aluOp := op.extractLsb' 0 4
    rdProg := g.readsProgramMemory
    rdData := g.readsDataMemory
    wrData := g.writesToDataMemory
    isCall := g.isCall
    isRet := g.isReturn
    brValid := g.branchCondition.isSome
    brCond := op.extractLsb' 0 3
    lVal := a
    lImm := g.leftOperand.isImmediate
    rVal := b
    rImm := g.rightOperand.isImmediate
    dstValid := g.destination.isSome
    dst := c
    cfRedirect := g.controlFlowRedirected }

/-- The ALU's outputs (R37): `res_valid` is `res.isSome`; `afault` is `none` for no fault. -/
structure AluOut where
  res : Option Byte
  afault : Option ArithFault
deriving DecidableEq, Repr

/-- The ALU's ports (R37): no result when `alu_valid` is 0 or the operation faults. -/
def aluPorts (aluValid : Bool) (aluOp : BitVec 4) (l r : Byte) : AluOut :=
  match aluValid, aluOfCode aluOp with
  | true, some f =>
    match alu f l r with
    | .ok v => ⟨some v, none⟩
    | .error e => ⟨none, some e⟩
  | _, _ => ⟨none, none⟩

/-- The branch evaluator's ports (R38): `taken` is 0 when `br_valid` is 0. -/
def branchPorts (brValid : Bool) (brCond : BitVec 3) (l r : Byte) : Bool :=
  match brValid, relOfCode brCond with
  | true, some q => holds q l r
  | _, _ => false

/-- The output of a cycle (R126): PROM or DATA at ADDR, else the ALU's result, else none. -/
def cycleOutput (g : ControlSignals) (L R : Byte) (s : State) : Result (Option Byte) :=
  if g.readsProgramMemory then .ok (some (s.loadProgram s.addr)) s
  else if g.readsDataMemory then .ok (some (s.loadData s.addr)) s
  else match g.aluOperation with
    | some f => (aluResult f L R s).andThen fun v s => .ok (some v) s
    | none => .ok none s

/-- The three steps at a destination `d` (R127), carrying whether the PC was redirected. -/
def cycleDestination (g : ControlSignals) (d L R : Byte) (out : Option Byte) (s : State) : Result Bool :=
  let taken := match g.branchCondition with
    | some q => holds q L R
    | none => false
  let s := if taken then s.setPc d else s
  let called : Result Bool :=
    if g.isCall then (push s.pc s).andThen fun _ s => .ok true (s.setPc d) else .ok taken s
  called.andThen fun redirected s =>
    match out with
    | some v => (writeReg d v s).andThen fun _ s => .ok (redirected || d == Config.pcIndex) s
    | none => .ok redirected s

/-- The cycle after the HALT test, over the decoder's signals (R120, R123 to R130). -/
def cycleBody (g : ControlSignals) (s : State) : Result Unit :=
  if g.isReturn then (pop s).andThen fun t s => advance (s.setPc t)
  else
    (resolve g.leftOperand s).andThen fun L s =>
    (resolve g.rightOperand s).andThen fun R s =>
    (cycleOutput g L R s).andThen fun out s =>
    (match g.destination with
      | some d => cycleDestination g d L R out s
      | none => .ok false s).andThen fun redirected s =>
    let s := if g.writesToDataMemory then s.storeData s.addr L else s
    if redirected then .ok () s else advance s

/-- The sequencer's cycle (R42, R120): fetch, HALT test on the whole opcode byte (R86), decode, dispatch, write-back and
PC update. -/
def cycle (s : State) : Host.Outcome State Fault Refusal :=
  match stopReason s with
  | some r => .fault r
  | none =>
    let p := s.pc.toNat
    if p % Config.instrBytes ≠ 0 then .next (s.enterFaulted (.fetch .misaligned))
    else
      let op := s.prom.read p
      if op = Config.haltOpcode then .next (haltRun s)
      else (cycleBody (controlSignals op (s.prom.read (p + 1)) (s.prom.read (p + 2)) (s.prom.read (p + 3))) s).finish

end Sys2Proof.Machine
end

