-- ==== Sys2Proof/Safety.lean ====
section
/-! DEFINITION. What counts as a well-kept state and a safe run, in the terms the claims use. -/

namespace Sys2Proof.Machine

/-- The instructions that produce a result for a destination register: OR, AND, ADD, SUB, NOT, XOR, SHL, SHR, MOD, DIV,
LOAD and LOADP, by opclass (R94). -/
def ProducesResult (i : Instr) : Prop := i.fields.opclass.toNat ∈ [0, 1, 2, 3, 4, 5, 8, 9, 12, 13, 24, 25]

/-- The six branches, by opclass (R84). -/
def IsBranch (i : Instr) : Prop := i.fields.opclass.toNat ∈ [32, 33, 34, 35, 36, 37]

/-- An instruction that selects no operation: a no-op (R87, R131). -/
def IsNop (i : Instr) : Prop :=
  ¬ ProducesResult i ∧ ¬ IsBranch i ∧ i.fields.opclass ∉ [16#6, 38#6, 39#6] ∧
    ¬ (i.fields.opclass = 63#6 ∧ i.fields.left.isImmediate = true ∧ i.fields.right.isImmediate = true)

/-- The invariant every cycle keeps. -/
structure State.Inv (s : State) : Prop where
  /-- PROM in canonical form (R60). -/
  prom_wf : s.prom.wf = true
  /-- DATA in canonical form (R60). -/
  data_wf : s.data.wf = true
  /-- The call-stack entries in canonical form (R29). -/
  stack_wf : s.stack.wf = true
  /-- The cursor takes the values 0..256 (R29). -/
  sp_le : s.sp ≤ Config.stackDepth
  /-- The storage cell `x[7]` holds 0 for the whole run (R25). -/
  io_cell_zero : s.reg 7 = 0
  /-- The fault record is empty unless Faulted, and set when Faulted (R28). -/
  record_iff : s.fault.isSome = true ↔ s.run = .faulted
  /-- The fault record's `pc` is `x[6]` (R28, R250). -/
  record_pc : ∀ r, s.fault = some r → r.pc = s.pc
  /-- Every pending return address is a multiple of 4 (R223). -/
  returns_aligned : ∀ k, k < s.sp → aligned (s.stack.read k) = true

/-- A state is safe while no fault has been entered: Halted is the clean end (R122, R132). -/
def State.Safe (s : State) : Prop := s.run ≠ .faulted

/-- A run of at most `k` cycles from `s` meets no fault. -/
def FaultFree : Nat → State → Prop
  | 0, s => s.Safe
  | k + 1, s => s.Safe ∧ ∀ t, step s = .next t → FaultFree k t

/-- Two states that no program can tell apart (R25, R225): the same but for the cell `x[7]` and for call-stack entries
at or above the cursor. -/
structure State.SameVisible (s t : State) : Prop where
  regs : ∀ j : Fin 8, j ≠ 7 → s.reg j = t.reg j
  prom : s.prom = t.prom
  data : s.data = t.data
  entries : ∀ k, k < s.sp → s.stack.read k = t.stack.read k
  sp : s.sp = t.sp
  run : s.run = t.run
  fault : s.fault = t.fault
  out : s.out = t.out
  input : s.input = t.input

end Sys2Proof.Machine
end

