-- ==== Sys2Proof/Certificates/Slice0/Obligations.lean ====
section
/-! DEFINITION. The statements for the provers. Each is `def Obligations.<Name> : Prop`; the shapes that several share
stand first. Where a clause rests on a decision of the spec (92_eei_decisions.md D1 to D20) or of the model
(notes/assumptions), the docstring says so. -/

namespace Sys2Proof.Claims

open Sys2Proof.Machine

/-- The instruction `mk l r c` completes with the result `value` whenever its operands resolve to bytes that meet `runs`,
for every destination byte `c`: r0..r5 are written and the PC goes on by 4; r6 is a jump; r7 is printed; an index of 8
or more faults with nothing written; and off the end of PROM the result is delivered and then the advance faults. -/
def DeliversResult (mk : Operand → Operand → Byte → Instr) (runs : Byte → Byte → Prop)
    (value : State → Byte → Byte → Byte) : Prop :=
  ∀ (l r : Operand) (c : Byte) (s s1 s2 : State) (L R : Byte),
    resolve l s = .ok L s1 → resolve r s1 = .ok R s2 → runs L R →
      (∀ j : Fin 8, j.val ≤ 5 → c.toNat = j.val → s.pc.toNat ≤ 251 →
        exec (mk l r c) s = .next ((s2.setReg j (value s L R)).setPc (s.pc + 4))) ∧
      (c = 6#8 → exec (mk l r c) s = .next (s2.setPc (value s L R))) ∧
      (c = 7#8 → s.pc.toNat ≤ 251 →
        exec (mk l r c) s = .next ({ s2 with out := s2.out ++ [value s L R] }.setPc (s.pc + 4))) ∧
      (8 ≤ c.toNat → exec (mk l r c) s = .next (s2.enterFaulted .registerIndex)) ∧
      (∀ j : Fin 8, j.val ≤ 5 → c.toNat = j.val → 252 ≤ s.pc.toNat →
        exec (mk l r c) s = .next ((s2.setReg j (value s L R)).enterFaulted (.fetch .outOfRange))) ∧
      (c = 7#8 → 252 ≤ s.pc.toNat →
        exec (mk l r c) s =
          .next ({ s2 with out := s2.out ++ [value s L R] }.enterFaulted (.fetch .outOfRange)))

/-- The instruction `mk l r c` raises an ArithmeticFault, whatever its destination, when its operands resolve to bytes
that meet `bad`: nothing is written. -/
def ArithmeticFaultsWhen (mk : Operand → Operand → Byte → Instr) (bad : Byte → Byte → Prop) (e : ArithFault) : Prop :=
  ∀ (l r : Operand) (c : Byte) (s s1 s2 : State) (L R : Byte),
    resolve l s = .ok L s1 → resolve r s1 = .ok R s2 → bad L R →
      exec (mk l r c) s = .next (s2.enterFaulted (.arithmetic e))

/-- The branch `mk l r c` goes to `c` exactly when `rel` holds of its operands as unsigned integers, and else goes on by
4 or off the end of PROM. -/
def BranchesWhen (mk : Operand → Operand → Byte → Instr) (rel : Nat → Nat → Prop) : Prop :=
  ∀ (l r : Operand) (c : Byte) (s s1 s2 : State) (L R : Byte),
    resolve l s = .ok L s1 → resolve r s1 = .ok R s2 →
      (rel L.toNat R.toNat → exec (mk l r c) s = .next (s2.setPc c)) ∧
      (¬ rel L.toNat R.toNat → s.pc.toNat ≤ 251 → exec (mk l r c) s = .next (s2.setPc (s.pc + 4))) ∧
      (¬ rel L.toNat R.toNat → 252 ≤ s.pc.toNat →
        exec (mk l r c) s = .next (s2.enterFaulted (.fetch .outOfRange)))

/-- `i` is a no-op with the operands `l` and `r`: it resolves both and only advances. -/
def OnlyAdvances (i : Instr) (l r : Operand) : Prop :=
  ∀ (s s1 s2 : State) (L R : Byte), resolve l s = .ok L s1 → resolve r s1 = .ok R s2 →
    (s.pc.toNat ≤ 251 → exec i s = .next (s2.setPc (s.pc + 4))) ∧
    (252 ≤ s.pc.toNat → exec i s = .next (s2.enterFaulted (.fetch .outOfRange)))

/-- What the instruction `i` has done in `s` when its advance comes (40_cycle.md R126 to R130), `u` being the state then:
RET has popped; any other has resolved its operands, and then it has delivered its result to a destination other than
r6, or stored its left operand, or had its relation fail, or it is a no-op. -/
def EffectBeforeAdvance (i : Instr) (s u : State) : Prop :=
  (i.fields.opclass = 39#6 ∧ 0 < s.sp ∧ u = ({ s with sp := s.sp - 1 } : State).setPc (s.stack.read (s.sp - 1))) ∨
  ∃ (L R : Byte) (s1 s2 : State), resolve i.fields.left s = .ok L s1 ∧ resolve i.fields.right s1 = .ok R s2 ∧
    ((∃ v, i.fields.c ≠ 6#8 ∧ writeReg i.fields.c v s2 = .ok () u ∧
        ((∃ f, aluOperationOf i.fields.opclass = some f ∧ alu f L R = .ok v) ∨
          (i.fields.opclass = 24#6 ∧ v = s.data.read s.addr.toNat) ∨
          (i.fields.opclass = 25#6 ∧ v = s.prom.read s.addr.toNat))) ∨
      (i.fields.opclass = 16#6 ∧ u = s2.storeData s.addr L) ∨
      (∃ q, branchConditionOf i.fields.opclass = some q ∧ holds q L R = false ∧ u = s2) ∨
      (IsNop i ∧ u = s2))

/-- The no-ops with any immediate flags. -/
def nopForms : List (Operand → Operand → Byte → Instr) :=
  [.nop6, .nop7, .nop10, .nop11, .nop14, .nop15, .nop17, .nop18, .nop19, .nop20, .nop21, .nop22, .nop23, .nop26, .nop27,
   .nop28, .nop29, .nop30, .nop31, .nop40, .nop41, .nop42, .nop43, .nop44, .nop45, .nop46, .nop47, .nop48, .nop49,
   .nop50, .nop51, .nop52, .nop53, .nop54, .nop55, .nop56, .nop57, .nop58, .nop59, .nop60, .nop61, .nop62]

end Sys2Proof.Claims

open Sys2Proof Sys2Proof.Machine Sys2Proof.Claims

/-! ## Encoding and the decoder -/

/-- Words written out from the encoding: 95_test_vectors.md S3, S4, S5, S8 and R99's idioms, and HALT and the no-ops of
opclass 63. -/
def Obligations.SpecWordsDecode : Prop :=
  decode 64 7 0 1 = .or (.reg 7) (.imm 0) 1 ∧ decode 16 0 0 0 = .store (.reg 0) (.reg 0) 0 ∧
  decode 96 0 0 0 = .beq (.reg 0) (.imm 0) 0 ∧ decode 230 0 0 64 = .call (.imm 0) (.imm 0) 64 ∧
  decode 39 0 0 0 = .ret (.reg 0) (.reg 0) 0 ∧ decode 217 0 0 7 = .loadp (.imm 0) (.imm 0) 7 ∧
  decode 205 17 5 0 = .div (.imm 17) (.imm 5) 0 ∧ decode 198 0 0 0 = .nop6 (.imm 0) (.imm 0) 0 ∧
  decode 0xFF 7 7 7 = .halt 7 7 7 ∧ decode 0x3F 1 2 3 = .nop63rr 1 2 3 ∧ decode 0x7F 1 2 3 = .nop63ri 1 2 3 ∧
  decode 0xBF 1 2 3 = .nop63ir 1 2 3

/-- Decoding the encoding of any instruction gives it back, with the bytes after it untouched: every operand at every
value. -/
def Obligations.DecodeInvertsEncode : Prop :=
  ∀ (i : Instr) (rest : List Byte), decodeBytes (encode i ++ rest) = .ok (i, rest)

/-- Encoding what any four bytes decode to gives the four bytes back: no bit is dropped and no pattern is refused
(30_encoding.md R82, R87, R91). -/
def Obligations.EncodeInvertsDecode : Prop :=
  ∀ op a b c : Byte, encode (decode op a b c) = [op, a, b, c]

/-- R81: the three fields of the opcode byte reach the instruction for every opclass: IL, IR and the opclass, with the
operands that IL and IR make immediates or registers. -/
def Obligations.OpcodeFieldsReachEveryInstruction : Prop :=
  ∀ op a b c : Byte,
    (decode op a b c).fields.opclass.toNat = op.toNat % 64 ∧
    (decode op a b c).fields.left = (if op.toNat / 128 = 1 then .imm a else .reg a) ∧
    (decode op a b c).fields.right = (if op.toNat / 64 % 2 = 1 then .imm b else .reg b) ∧
    (controlSignals op a b c).leftOperand = (if op.toNat / 128 = 1 then .imm a else .reg a) ∧
    (controlSignals op a b c).rightOperand = (if op.toNat / 64 % 2 = 1 then .imm b else .reg b)

/-- R92: with IL = 1 the left operand is the byte `a` itself, whatever the registers hold; with IR = 1 the right operand
is the byte `b` itself. -/
def Obligations.ImmediateIsTheByteItself : Prop :=
  ∀ (op a b c : Byte) (s : State),
    (op.getLsbD 7 = true → resolve (controlSignals op a b c).leftOperand s = .ok a s) ∧
    (op.getLsbD 6 = true → resolve (controlSignals op a b c).rightOperand s = .ok b s)

/-- Every opcode byte lies in exactly one row of the opcode table, and it is the row of the decoded instruction. -/
def Obligations.EveryOpcodeByteHasOneRow : Prop :=
  ∀ op a b c : Byte, ∃ row ∈ opcodeTable, row.Matches op = true ∧ row.mnemonic = (decode op a b c).mnemonic ∧
    ∀ row' ∈ opcodeTable, row'.Matches op = true → row' = row

/-- R89, R90: which instructions have no destination, and which redirect control flow by the decoder's flag. -/
def Obligations.DestinationAndRedirectFlag : Prop :=
  ∀ op a b c : Byte,
    ((controlSignals op a b c).destination =
      if op.toNat % 64 = 39 ∨ op.toNat % 64 = 16 then none else some c) ∧
    ((controlSignals op a b c).controlFlowRedirected = true ↔
      op.toNat % 64 = 38 ∨ IsBranch (decode op a b c) ∨ (ProducesResult (decode op a b c) ∧ c = 6#8))

/-- The decoder's wires carry codes that the ALU and the branch evaluator read back as the operation and the relation of
the record: an ALU fed by the wires computes the record's operation, and a branch evaluator fed by them the record's
relation. The codes are the spec's choice, 92_eei_decisions.md D19. -/
def Obligations.WiresDriveAluAndBranchUnit : Prop :=
  ∀ op a b c L R : Byte,
    aluPorts (decoderWires op a b c).aluValid (decoderWires op a b c).aluOp L R =
      (match (controlSignals op a b c).aluOperation with
        | some f => (match alu f L R with | .ok v => ⟨some v, none⟩ | .error e => ⟨none, some e⟩)
        | none => ⟨none, none⟩) ∧
    branchPorts (decoderWires op a b c).brValid (decoderWires op a b c).brCond L R =
      (match (controlSignals op a b c).branchCondition with
        | some q => holds q L R
        | none => false)

/-! ## Registers, the console and operands -/

/-- `ReadReg`, every case. An index of 8 or more faults by 92_eei_decisions.md D5, a bad line by D4; that an EOF stays at
the head of the input, since every later item is EOF, is the model's form of the input (notes/assumptions/2.md). -/
def Obligations.ReadRegEveryCase : Prop :=
  ∀ (s : State) (i v : Byte) (rest : List InputItem),
    (∀ j : Fin 8, j.val ≤ 6 → i.toNat = j.val → readReg i s = .ok (s.reg j) s) ∧
    (i = 7#8 → s.input = .byte v :: rest → readReg i s = .ok v { s with input := rest }) ∧
    (i = 7#8 → s.input = .bad :: rest → readReg i s = .raise (.input .malformed) { s with input := rest }) ∧
    (i = 7#8 → s.input = .eof :: rest → readReg i s = .raise (.input .endOfInput) s) ∧
    (i = 7#8 → s.input = [] → readReg i s = .wait) ∧
    (8 ≤ i.toNat → readReg i s = .raise .registerIndex s)

/-- `WriteReg`, every case. An index of 8 or more faults by 92_eei_decisions.md D5. -/
def Obligations.WriteRegEveryCase : Prop :=
  ∀ (s : State) (i v : Byte),
    (∀ j : Fin 8, j.val ≤ 6 → i.toNat = j.val → ∃ t, writeReg i v s = .ok () t ∧ t.reg j = v ∧
      (∀ m : Fin 8, m ≠ j → t.reg m = s.reg m) ∧ t = { s with x := t.x }) ∧
    (i = 7#8 → writeReg i v s = .ok () { s with out := s.out ++ [v] }) ∧
    (8 ≤ i.toNat → writeReg i v s = .raise .registerIndex s)

/-- Operands that resolve act as the immediates of their values, left before right: every opclass below 63 but RET's runs
on its resolved operands alone (NoOpsOnlyAdvance says it of NOP63). The order is 92_eei_decisions.md D9, each operand testing its own index D3. -/
def Obligations.ResolvedOperandsActAsImmediates : Prop :=
  ∀ (k : Nat) (l r : Operand) (c : Byte) (s s1 s2 : State) (L R : Byte), k < 63 → k ≠ 39 →
    resolve l s = .ok L s1 → resolve r s1 = .ok R s2 →
      exec (decodeClass k l r c) s = exec (decodeClass k (.imm L) (.imm R) c) s2

/-- An operand that faults ends every instruction but RET with that fault, the left one first, and an operand that waits
holds every instruction but RET; HALT's operand bytes count as immediates and do neither. The order of the faults is
92_eei_decisions.md D9 and D8; that a wait is no step is 93_implementation_defined.md K16 (notes/assumptions/1.md). -/
def Obligations.OperandFaultsComeFirst : Prop :=
  ∀ (i : Instr) (s s1 s2 : State) (L : Byte) (k : FaultKind), i.fields.opclass ≠ 39#6 →
    (resolve i.fields.left s = .raise k s1 → exec i s = .next (s1.enterFaulted k)) ∧
    (resolve i.fields.left s = .ok L s1 → resolve i.fields.right s1 = .raise k s2 →
      exec i s = .next (s2.enterFaulted k)) ∧
    (resolve i.fields.left s = .wait → exec i s = .fault .awaitingInput) ∧
    (resolve i.fields.left s = .ok L s1 → resolve i.fields.right s1 = .wait → exec i s = .fault .awaitingInput)

/-! ## The ALU and the branch evaluator -/

/-- The ALU on unsigned integers: every operation's value and fault condition. The logical shifts are
92_eei_decisions.md D10, unsigned division D11. -/
def Obligations.AluValuesAndFaults : Prop :=
  ∀ L R : Byte,
    (∀ n, (alu .or L R = .ok (L ||| R)) ∧ ((L ||| R).getLsbD n = (L.getLsbD n || R.getLsbD n))) ∧
    (∀ n, (alu .and L R = .ok (L &&& R)) ∧ ((L &&& R).getLsbD n = (L.getLsbD n && R.getLsbD n))) ∧
    (∀ n, (alu .xor L R = .ok (L ^^^ R)) ∧ ((L ^^^ R).getLsbD n = (L.getLsbD n != R.getLsbD n))) ∧
    (∃ v, alu .not L R = .ok v ∧ v.toNat = 255 - L.toNat) ∧
    (∃ v, alu .add L R = .ok v ∧ v.toNat = (L.toNat + R.toNat) % 256) ∧
    (L.toNat < R.toNat → alu .sub L R = .error .subUnderflow) ∧
    (R.toNat ≤ L.toNat → ∃ v, alu .sub L R = .ok v ∧ v.toNat = L.toNat - R.toNat) ∧
    (8 ≤ R.toNat → alu .leftShift L R = .error .shiftRange ∧ alu .rightShift L R = .error .shiftRange) ∧
    (R.toNat < 8 → (∃ v, alu .leftShift L R = .ok v ∧ v.toNat = L.toNat * 2 ^ R.toNat % 256) ∧
      ∃ v, alu .rightShift L R = .ok v ∧ v.toNat = L.toNat / 2 ^ R.toNat) ∧
    (R.toNat = 0 → alu .mod L R = .error .modZero ∧ alu .div L R = .error .divZero) ∧
    (R.toNat ≠ 0 → (∃ v, alu .mod L R = .ok v ∧ v.toNat = L.toNat % R.toNat) ∧
      ∃ v, alu .div L R = .ok v ∧ v.toNat = L.toNat / R.toNat)

/-- R180: the six relations on unsigned bytes. -/
def Obligations.RelationsCompareUnsignedBytes : Prop :=
  ∀ L R : Byte,
    (holds .equal L R = true ↔ L.toNat = R.toNat) ∧ (holds .notEqual L R = true ↔ L.toNat ≠ R.toNat) ∧
    (holds .less L R = true ↔ L.toNat < R.toNat) ∧ (holds .lessEqual L R = true ↔ L.toNat ≤ R.toNat) ∧
    (holds .greater L R = true ↔ R.toNat < L.toNat) ∧ (holds .greaterEqual L R = true ↔ R.toNat ≤ L.toNat)

/-! ## What each instruction does -/

/-- OR, AND, XOR and NOT complete on every operand; NOT ignores its resolved right operand. The PC's update is
92_eei_decisions.md D2, an index of 8 or more D5, the end of PROM D7. -/
def Obligations.LogicInstructionsDeliver : Prop :=
  DeliversResult .or (fun _ _ => True) (fun _ L R => L ||| R) ∧
  DeliversResult .and (fun _ _ => True) (fun _ L R => L &&& R) ∧
  DeliversResult .xor (fun _ _ => True) (fun _ L R => L ^^^ R) ∧
  DeliversResult .not (fun _ _ => True) (fun _ L _ => BitVec.ofNat 8 (255 - L.toNat))

/-- ADD completes on every operand with the sum modulo 256, and SUB on every operand with no underflow; else SUB faults.
The PC's update is 92_eei_decisions.md D2, an index of 8 or more D5, the end of PROM D7, the sub-kind's name D12. -/
def Obligations.AddAndSubDeliver : Prop :=
  DeliversResult .add (fun _ _ => True) (fun _ L R => BitVec.ofNat 8 ((L.toNat + R.toNat) % 256)) ∧
  DeliversResult .sub (fun L R => R.toNat ≤ L.toNat) (fun _ L R => BitVec.ofNat 8 (L.toNat - R.toNat)) ∧
  ArithmeticFaultsWhen .sub (fun L R => L.toNat < R.toNat) .subUnderflow

/-- SHL and SHR complete for shift amounts below 8, logically (92_eei_decisions.md D10); else they fault. The PC's update
is D2, an index of 8 or more D5, the end of PROM D7, the sub-kind's name D12. -/
def Obligations.ShiftsDeliver : Prop :=
  DeliversResult .shl (fun _ R => R.toNat < 8) (fun _ L R => BitVec.ofNat 8 (L.toNat * 2 ^ R.toNat % 256)) ∧
  DeliversResult .shr (fun _ R => R.toNat < 8) (fun _ L R => BitVec.ofNat 8 (L.toNat / 2 ^ R.toNat)) ∧
  ArithmeticFaultsWhen .shl (fun _ R => 8 ≤ R.toNat) .shiftRange ∧
  ArithmeticFaultsWhen .shr (fun _ R => 8 ≤ R.toNat) .shiftRange

/-- MOD and DIV complete for divisors other than 0, unsigned and rounded down (92_eei_decisions.md D11); else they fault.
The PC's update is D2, an index of 8 or more D5, the end of PROM D7, the sub-kinds' names D12. -/
def Obligations.ModAndDivDeliver : Prop :=
  DeliversResult .mod (fun _ R => R.toNat ≠ 0) (fun _ L R => BitVec.ofNat 8 (L.toNat % R.toNat)) ∧
  DeliversResult .div (fun _ R => R.toNat ≠ 0) (fun _ L R => BitVec.ofNat 8 (L.toNat / R.toNat)) ∧
  ArithmeticFaultsWhen .mod (fun _ R => R.toNat = 0) .modZero ∧
  ArithmeticFaultsWhen .div (fun _ R => R.toNat = 0) .divZero

/-- LOAD and LOADP complete on every operand with the byte at ADDR, taken before the instruction, of DATA and of PROM.
The PC's update is 92_eei_decisions.md D2, an index of 8 or more D5, the end of PROM D7. -/
def Obligations.LoadsDeliver : Prop :=
  DeliversResult .load (fun _ _ => True) (fun s _ _ => s.data.read (s.reg 5).toNat) ∧
  DeliversResult .loadp (fun _ _ => True) (fun s _ _ => s.prom.read (s.reg 5).toNat)

/-- STORE completes with its left operand at DATA[ADDR], every other byte of DATA as before, and nothing else but the PC
changed, whatever its byte `c`. That it stores, and what, is 92_eei_decisions.md D1; the PC's update D2, the end of
PROM D7. The premise that DATA is canonical holds of every state a run reaches (StepKeepsInvariant). -/
def Obligations.StoreWritesLeftAtAddr : Prop :=
  ∀ (l r : Operand) (c : Byte) (s s1 s2 : State) (L R : Byte), s.data.wf = true →
    resolve l s = .ok L s1 → resolve r s1 = .ok R s2 →
      ∃ t, exec (.store l r c) s = .next t ∧
        (∀ a : Nat, t.data.read a = if a = s.addr.toNat then L else s.data.read a) ∧
        (s.pc.toNat ≤ 251 → t = { s2 with data := t.data }.setPc (s.pc + 4)) ∧
        (252 ≤ s.pc.toNat → t = { s2 with data := t.data }.enterFaulted (.fetch .outOfRange))

/-- The six branches complete on every operand: to `c` when their relation holds, else on by 4. The PC's update is
92_eei_decisions.md D2, the end of PROM D7. -/
def Obligations.BranchesGoToTargetWhenRelationHolds : Prop :=
  BranchesWhen .beq (fun L R => L = R) ∧ BranchesWhen .bne (fun L R => L ≠ R) ∧ BranchesWhen .blt (fun L R => L < R) ∧
  BranchesWhen .ble (fun L R => L ≤ R) ∧ BranchesWhen .bgt (fun L R => L > R) ∧ BranchesWhen .bge (fun L R => L ≥ R)

/-- CALL pushes its own address and goes to `c`, and with 256 calls pending it faults and pushes nothing. The PC's update
is 92_eei_decisions.md D2, the depth D13. The premise that the stack is canonical holds of every state a run reaches
(StepKeepsInvariant). -/
def Obligations.CallPushesOwnAddress : Prop :=
  ∀ (l r : Operand) (c : Byte) (s s1 s2 : State) (L R : Byte), s.stack.wf = true →
    resolve l s = .ok L s1 → resolve r s1 = .ok R s2 →
      (s.sp < 256 → ∃ t, exec (.call l r c) s = .next t ∧ t.sp = s.sp + 1 ∧
        (∀ k : Nat, t.stack.read k = if k = s.sp then s.pc else s.stack.read k) ∧
        t = { s2 with stack := t.stack, sp := t.sp }.setPc c) ∧
      (256 ≤ s.sp → exec (.call l r c) s = .next (s2.enterFaulted (.stack .overflow)))

/-- RET pops an address and goes 4 past it, resolving no operand, and with no call pending it faults and changes nothing
else. The 4 is 92_eei_decisions.md D2, the end of PROM D7. -/
def Obligations.RetGoesPastTheCall : Prop :=
  ∀ (l r : Operand) (c : Byte) (s : State),
    (0 < s.sp → (s.stack.read (s.sp - 1)).toNat ≤ 251 →
      exec (.ret l r c) s = .next ({ s with sp := s.sp - 1 }.setPc (s.stack.read (s.sp - 1) + 4))) ∧
    (0 < s.sp → 252 ≤ (s.stack.read (s.sp - 1)).toNat →
      exec (.ret l r c) s =
        .next (({ s with sp := s.sp - 1 }.setPc (s.stack.read (s.sp - 1))).enterFaulted (.fetch .outOfRange))) ∧
    (s.sp = 0 → exec (.ret l r c) s = .next (s.enterFaulted (.stack .underflow)))

/-- A call and the return from it come back 4 past the call with the same calls pending, whatever the subroutine did to
everything but the stack (92_eei_decisions.md D2). -/
def Obligations.CallThenReturnResumesAfterTheCall : Prop :=
  ∀ (l r l' r' : Operand) (c c' : Byte) (s s1 s2 : State) (L R : Byte), s.stack.wf = true → s.sp < 256 →
    s.pc.toNat ≤ 251 → resolve l s = .ok L s1 → resolve r s1 = .ok R s2 →
      ∃ t, exec (.call l r c) s = .next t ∧ t.pc = c ∧
        ∀ t' : State, t'.stack = t.stack → t'.sp = t.sp →
          exec (.ret l' r' c') t' = .next ({ t' with sp := s.sp }.setPc (s.pc + 4))

/-- Every no-op, of every unassigned opclass, resolves its operands and only advances. The resolution of unused operands
is the source's step 2 (40_cycle.md R124), the end of PROM 92_eei_decisions.md D7. -/
def Obligations.NoOpsOnlyAdvance : Prop :=
  (∀ mk ∈ nopForms, ∀ (l r : Operand) (c : Byte), OnlyAdvances (mk l r c) l r) ∧
  (∀ a b c : Byte, OnlyAdvances (.nop63rr a b c) (.reg a) (.reg b)) ∧
  (∀ a b c : Byte, OnlyAdvances (.nop63ri a b c) (.reg a) (.imm b)) ∧
  (∀ a b c : Byte, OnlyAdvances (.nop63ir a b c) (.imm a) (.reg b))

/-- HALT changes the run state and nothing else, whatever its operand bytes (92_eei_decisions.md D15). -/
def Obligations.HaltOnlyHalts : Prop :=
  ∀ (a b c : Byte) (s : State), exec (.halt a b c) s = .next { s with run := .halted }

/-! ## Frames: what an instruction leaves unchanged -/

/-- The register frame of every instruction: r0..r5 change only as the destination of an instruction that produces a
result, and the cell behind r7 never changes. -/
def Obligations.RegisterFrame : Prop :=
  ∀ (i : Instr) (s t : State), exec i s = .next t →
    (∀ j : Fin 8, j ≠ 6 → ¬ (ProducesResult i ∧ i.fields.c.toNat = j.val) → t.reg j = s.reg j) ∧ t.reg 7 = s.reg 7

/-- The memory frame of every instruction: no byte of PROM changes; a byte of DATA changes only by STORE, at ADDR; an
entry of the call stack changes only by CALL, at the cursor; the cursor changes only by CALL and RET. -/
def Obligations.MemoryFrame : Prop :=
  ∀ (i : Instr) (s t : State), s.data.wf = true → s.stack.wf = true → exec i s = .next t →
    (∀ a : Nat, t.prom.read a = s.prom.read a) ∧
    (∀ a : Nat, ¬ (i.fields.opclass = 16#6 ∧ a = s.addr.toNat) → t.data.read a = s.data.read a) ∧
    (∀ k : Nat, ¬ (i.fields.opclass = 38#6 ∧ k = s.sp) → t.stack.read k = s.stack.read k) ∧
    (i.fields.opclass ≠ 38#6 → i.fields.opclass ≠ 39#6 → t.sp = s.sp)

/-- The console frame of every instruction: at most two items are consumed, from the front, and none by RET or HALT; at
most one byte is printed, and only by an instruction that produces a result for r7. -/
def Obligations.ConsoleFrame : Prop :=
  ∀ (i : Instr) (s t : State), exec i s = .next t →
    (∃ used, s.input = used ++ t.input ∧ used.length ≤ 2 ∧
      (i.fields.opclass = 39#6 ∨ (i.fields.left.isImmediate = true ∧ i.fields.right.isImmediate = true) → used = [])) ∧
    (∃ printed, t.out = s.out ++ printed ∧ printed.length ≤ 1 ∧
      (¬ (ProducesResult i ∧ i.fields.c = 7#8) → printed = []))

/-! ## The cycle, faults and the machine's states -/

/-- A cycle from Running at an aligned PC is the decoded instruction's meaning, and at a misaligned PC a FetchFault with
nothing fetched (92_eei_decisions.md D6). -/
def Obligations.StepRunsTheDecodedInstruction : Prop :=
  ∀ (s : State) (i : Instr), s.run = .running →
    (s.pc.toNat % 4 = 0 →
      decodeBytes [s.prom.read s.pc.toNat, s.prom.read (s.pc.toNat + 1), s.prom.read (s.pc.toNat + 2),
        s.prom.read (s.pc.toNat + 3)] = .ok (i, []) → step s = exec i s) ∧
    (s.pc.toNat % 4 ≠ 0 → step s = .next (s.enterFaulted (.fetch .misaligned)))

/-- An instruction word placed at the PC is what the next cycle runs; placing it stands for the load from outside
(notes/assumptions/3.md). -/
def Obligations.PlacedWordRuns : Prop :=
  ∀ (s : State) (w : Nat) (i : Instr), s.run = .running → s.pc.toNat % 4 = 0 → s.prom.wf = true →
    decodeTableWord 32 w = some i → step (s.withFetchWord 32 w) = exec i (s.withFetchWord 32 w)

/-- The machine that runs instruction by instruction is the machine that runs signal by signal: one step is the cycle of
40_cycle.md R120 over the decoder's ControlSignals, in every state. R120 rests on the decisions it names; that the cycle
stands beside the step as a second view is the model's own (DESIGN CHOICE, notes/assumptions/20.md). -/
def Obligations.StepIsTheSignalCycle : Prop := ∀ s : State, step s = cycle s

/-- The PC after a cycle that stays Running, by the decoder's flag: no redirect is 4 on, without wrapping; a branch goes to
its byte `c` or 4 on; CALL goes to `c`; an ALU, LOAD or LOADP result for r6 is the PC; RET goes 4 past the popped address
(92_eei_decisions.md D2, D7). -/
def Obligations.PcUpdateFollowsTheRedirectFlag : Prop :=
  ∀ s t : State, step s = .next t → t.run = .running →
    let i := s.instrAtPc
    let w := decoderWires (s.prom.read s.pc.toNat) (s.prom.read (s.pc.toNat + 1)) (s.prom.read (s.pc.toNat + 2))
      (s.prom.read (s.pc.toNat + 3))
    (w.cfRedirect = false → i.fields.opclass ≠ 39#6 → t.pc.toNat = s.pc.toNat + 4) ∧
    (w.brValid = true → t.pc = i.fields.c ∨ t.pc.toNat = s.pc.toNat + 4) ∧
    (w.isCall = true → t.pc = i.fields.c) ∧
    (w.rdData = true → i.fields.c = 6#8 → t.pc = s.data.read s.addr.toNat) ∧
    (w.rdProg = true → i.fields.c = 6#8 → t.pc = s.prom.read s.addr.toNat) ∧
    (w.aluValid = true → i.fields.c = 6#8 → ∃ (L R : Byte) (s1 s2 : State), resolve i.fields.left s = .ok L s1 ∧
      resolve i.fields.right s1 = .ok R s2 ∧ aluPorts w.aluValid w.aluOp L R = ⟨some t.pc, none⟩) ∧
    (w.isRet = true → t.pc.toNat = (s.stack.read (s.sp - 1)).toNat + 4)

/-- `Push(v)`: overflow at 256 (92_eei_decisions.md D13), else one entry and the cursor. That the entry written is the one at
the cursor is the spec's inference, which no program can observe (notes/assumptions/18.md). The premise that the stack is canonical holds of every state a run reaches (StepKeepsInvariant). -/
def Obligations.PushWritesTheNextEntry : Prop :=
  ∀ (v : Byte) (s : State),
    (s.sp = 256 → push v s = .raise (.stack .overflow) s) ∧
    (s.stack.wf = true → s.sp < 256 → ∃ t, push v s = .ok () t ∧ t.sp = s.sp + 1 ∧ t.stack.read s.sp = v ∧
      (∀ k : Nat, k ≠ s.sp → t.stack.read k = s.stack.read k) ∧ t = { s with stack := t.stack, sp := t.sp })

/-- R221: `Pop()`. The popped entry stays, at an index the cursor no longer covers. -/
def Obligations.PopReturnsTheLastEntry : Prop :=
  ∀ s : State,
    (s.sp = 0 → pop s = .raise (.stack .underflow) s) ∧
    (0 < s.sp → ∃ t, pop s = .ok (s.stack.read t.sp) t ∧ t.sp + 1 = s.sp ∧ t = { s with sp := t.sp })

/-- R250: a fault stops the cycle where it is raised, and then the run state is Faulted, the record holds the kind and
`x[6]`, and nothing else changes. -/
def Obligations.FaultEntry : Prop :=
  ∀ (k : FaultKind) (s : State) (rest : Unit → State → Result Unit),
    ((Result.raise k s).andThen rest).finish =
      .next { s with run := .faulted, fault := some { kind := k, pc := s.x.x6 } }

/-- A cycle that ends Faulted holds a record of the present PC; its kind tells what was undone: with any kind but
OutOfRange the cycle changed nothing else but the input consumed, and OutOfRange is raised in the state that the
instruction's own effect leaves, with the PC past the last address to advance from (92_eei_decisions.md D8, D7). -/
def Obligations.FaultsArePrecise : Prop :=
  ∀ s t : State, step s = .next t → t.run = .faulted →
    ∃ k, t.fault = some { kind := k, pc := t.pc } ∧
      (k ≠ .fetch .outOfRange →
        t = ({ s with input := t.input } : State).enterFaulted k ∧ ∃ used, s.input = used ++ t.input) ∧
      (k = .fetch .outOfRange →
        ∃ u, EffectBeforeAdvance s.instrAtPc s u ∧ 252 ≤ u.pc.toNat ∧ t = u.enterFaulted k)

/-- R251: no instruction, and nothing else a step does, leaves Halted or Faulted: no cycle executes there. -/
def Obligations.HaltedAndFaultedAreTerminal : Prop :=
  ∀ s : State, (s.run = .halted ∨ s.run = .faulted) → (∀ t, step s ≠ .next t) ∧
    (s.run = .halted → step s = .fault .halted) ∧ (s.run = .faulted → step s = .fault .faulted)

/-- A cycle ends Halted exactly when it fetched the opcode byte 0xFF, and then nothing but the run state changed
(92_eei_decisions.md D15, D6). -/
def Obligations.OnlyHaltHalts : Prop :=
  ∀ s t : State, s.run = .running → step s = .next t →
    ((t.run = .halted ↔ s.pc.toNat % 4 = 0 ∧ s.prom.read s.pc.toNat = 0xFF#8) ∧
      (t.run = .halted → t = { s with run := .halted }))

/-- A step answers no refusal, and stops only where the spec lets no cycle execute: Halted, Faulted, or waiting for an
input item that is not there (93_implementation_defined.md K16; notes/assumptions/1.md). -/
def Obligations.StepStopsOnlyWhenEndedOrWaiting : Prop :=
  ∀ s : State, (∀ e, step s ≠ .refused e) ∧
    (∀ e, step s = .fault e →
      (s.run = .halted ∧ e = .halted) ∨ (s.run = .faulted ∧ e = .faulted) ∨
        (s.run = .running ∧ e = .awaitingInput ∧ s.input.length ≤ 1))

/-- A wait ends when the host supplies its items: no cycle waits with two more items supplied (K16, the model's form of
the wait: notes/assumptions/1.md). -/
def Obligations.SuppliedInputEndsTheWait : Prop :=
  ∀ (s : State) (x y : InputItem), step ((s.supplyInput x).supplyInput y) ≠ .fault .awaitingInput

/-- An item supplied before it is asked for changes nothing of a cycle but the items left (the host's part is the model's
form of `IN`: notes/assumptions/2.md). -/
def Obligations.EarlyInputChangesNothing : Prop :=
  ∀ (s t : State) (x : InputItem), step s = .next t → step (s.supplyInput x) = .next (t.supplyInput x)

/-- The fault codes of the fault table, 1 to 11 (the spec's choice, 92_eei_decisions.md D12 and D5). -/
def Obligations.FaultCodes : Prop :=
  FaultKind.code (.arithmetic .subUnderflow) = 1 ∧ FaultKind.code (.arithmetic .shiftRange) = 2 ∧
  FaultKind.code (.arithmetic .divZero) = 3 ∧ FaultKind.code (.arithmetic .modZero) = 4 ∧
  FaultKind.code (.stack .overflow) = 5 ∧ FaultKind.code (.stack .underflow) = 6 ∧
  FaultKind.code (.input .malformed) = 7 ∧ FaultKind.code (.input .endOfInput) = 8 ∧
  FaultKind.code (.fetch .misaligned) = 9 ∧ FaultKind.code (.fetch .outOfRange) = 10 ∧
  FaultKind.code .registerIndex = 11 ∧ ∀ k k' : FaultKind, k.code = k'.code → k = k'

/-! ## Reset and invariants -/

/-- R270: every piece of state after reset from a 256-byte image and an input. -/
def Obligations.ResetState : Prop :=
  ∀ (image : List Byte) (input : List InputItem), image.length = 256 →
    (∀ j : Fin 8, (State.boot image input).reg j = 0) ∧
    (∀ a : Nat, a < 256 → (State.boot image input).prom.read a = image.getD a 0) ∧
    (∀ a : Nat, (State.boot image input).data.read a = 0) ∧
    (∀ k : Nat, (State.boot image input).stack.read k = 0) ∧
    (State.boot image input).sp = 0 ∧ (State.boot image input).run = .running ∧ (State.boot image input).fault = none ∧
    (State.boot image input).out = [] ∧ (State.boot image input).input = input

/-- The invariant holds after reset, from every image and input, and of `State.reset`. -/
def Obligations.ResetMeetsInvariant : Prop :=
  State.reset.Inv ∧ ∀ (image : List Byte) (input : List InputItem), (State.boot image input).Inv

/-- Every step keeps the invariant: canonical memories, the cursor in 0..256, the cell behind r7 at 0, a fault record
exactly when Faulted and with the present PC, and every pending return address a multiple of 4. -/
def Obligations.StepKeepsInvariant : Prop :=
  ∀ s t : State, s.Inv → step s = .next t → t.Inv

/-- No program can observe the cell behind r7 or a call-stack entry at or above the cursor: two states that differ only
there take the same steps, to states that differ only there and have canonical stacks again, so that the next step is
covered too. -/
def Obligations.StaleStateIsUnobservable : Prop :=
  ∀ s t : State, s.stack.wf = true → t.stack.wf = true → s.SameVisible t →
    (∀ s', step s = .next s' →
      ∃ t', step t = .next t' ∧ s'.SameVisible t' ∧ s'.stack.wf = true ∧ t'.stack.wf = true) ∧
    (∀ e, step s = .fault e → step t = .fault e)

/-- DATA is read only by LOAD: what any other instruction does is fixed by the rest of the state, whatever DATA holds. It
stops for the same reason, or it has the same next state but for DATA, and DATA is then what it was or, by STORE alone,
that with one and the same byte written at ADDR (that STORE writes is 92_eei_decisions.md D1). -/
def Obligations.DataIsReadOnlyByLoad : Prop :=
  ∀ (i : Instr) (s : State), i.fields.opclass ≠ 24#6 →
    (∃ e, ∀ d : Memory, exec i { s with data := d } = .fault e) ∨
    (∃ t : State, ∀ d : Memory, exec i { s with data := d } = .next { t with data := d }) ∨
    (i.fields.opclass = 16#6 ∧ ∃ (t : State) (v : Byte), ∀ d : Memory,
      exec i { s with data := d } = .next { t with data := d.write s.addr.toNat v })
end

