-- ==== Sys2Proof/Laws/Decode.lean ====
section
/-! SUPPORT. The fields of the opcode byte, and of decoded instructions. -/

namespace Sys2Proof

theorem opclass_opcodeByte (il ir : Bool) (k : BitVec 6) : opclass (opcodeByte il ir k) = k := by
  revert il ir k; decide

theorem immLeft_opcodeByte (il ir : Bool) (k : BitVec 6) : immLeft (opcodeByte il ir k) = il := by
  revert il ir k; decide

theorem immRight_opcodeByte (il ir : Bool) (k : BitVec 6) : immRight (opcodeByte il ir k) = ir := by
  revert il ir k; decide

/-- An opcode byte is its three fields put together. -/
theorem opcodeByte_fields (op : Byte) : opcodeByte (immLeft op) (immRight op) (opclass op) = op := by
  revert op; decide

/-- The three fields of the opcode byte by arithmetic (30_encoding.md R98). -/
theorem opcode_fields_arith (op : Byte) :
    (opclass op).toNat = op.toNat % 64 ∧ immLeft op = decide (op.toNat / 128 = 1) ∧
      immRight op = decide (op.toNat / 64 % 2 = 1) := by
  revert op; decide

@[simp] theorem Operand.ofFlag_isImmediate_value (o : Operand) : Operand.ofFlag o.isImmediate o.value = o := by
  cases o <;> rfl

@[simp] theorem Operand.value_ofFlag (f : Bool) (v : Byte) : (Operand.ofFlag f v).value = v := by cases f <;> rfl

@[simp] theorem Operand.isImmediate_ofFlag (f : Bool) (v : Byte) : (Operand.ofFlag f v).isImmediate = f := by
  cases f <;> rfl

/-- The fields of an instruction decoded by its opclass. -/
theorem fields_decodeClass {k : Nat} (hk : k < 64) (l r : Operand) (c : Byte) :
    (decodeClass k l r c).fields = ⟨BitVec.ofNat 6 k, l, r, c⟩ := by
  interval_cases k
  all_goals first | rfl | (cases l <;> cases r <;> rfl)

/-- The fields of a decoded instruction. -/
@[simp] theorem fields_decode (op a b c : Byte) :
    (decode op a b c).fields = ⟨opclass op, .ofFlag (immLeft op) a, .ofFlag (immRight op) b, c⟩ := by
  unfold decode
  rw [fields_decodeClass (opclass op).isLt]
  simp

end Sys2Proof
end

