-- ==== Sys2Proof/Laws/Memory.lean ====
section
/-! SUPPORT. The memory laws: a read after a write, and that every memory operation keeps the canonical form. -/

namespace Sys2Proof.Machine

@[simp] theorem Memory.read_nil (a : Nat) : Memory.read [] a = 0 := rfl

@[simp] theorem Memory.read_cons (b : Nat) (w : Byte) (m : Memory) (a : Nat) :
    Memory.read ((b, w) :: m) a = if a = b then w else Memory.read m a := rfl

theorem Memory.wfFrom_cons_iff {lo b : Nat} {w : Byte} {m : Memory} :
    Memory.wfFrom lo ((b, w) :: m) = true ↔ (lo ≤ b ∧ b < 256) ∧ w ≠ 0 ∧ Memory.wfFrom (b + 1) m = true := by
  simp [Memory.wfFrom, and_assoc]

/-- The canonical form from a lower address is one from any address below it. -/
theorem Memory.wfFrom_mono {lo hi : Nat} (h : lo ≤ hi) {m : Memory} (hm : Memory.wfFrom hi m = true) :
    Memory.wfFrom lo m = true := by
  cases m with
  | nil => rfl
  | cons c m =>
    obtain ⟨b, w⟩ := c
    rw [Memory.wfFrom_cons_iff] at hm ⊢
    exact ⟨⟨by omega, hm.1.2⟩, hm.2⟩

/-- A canonical memory reads the empty byte below its first address. -/
theorem Memory.read_below {lo a : Nat} (h : a < lo) {m : Memory} (hm : Memory.wfFrom lo m = true) :
    Memory.read m a = 0 := by
  induction m generalizing lo with
  | nil => rfl
  | cons c m ih =>
    obtain ⟨b, w⟩ := c
    rw [Memory.wfFrom_cons_iff] at hm
    rw [Memory.read_cons, if_neg (by omega)]
    exact ih (lo := b + 1) (by omega) hm.2.2

/-- A canonical memory reads the empty byte outside the address space. -/
theorem Memory.read_outside {lo a : Nat} (h : 256 ≤ a) {m : Memory} (hm : Memory.wfFrom lo m = true) :
    Memory.read m a = 0 := by
  induction m generalizing lo with
  | nil => rfl
  | cons c m ih =>
    obtain ⟨b, w⟩ := c
    rw [Memory.wfFrom_cons_iff] at hm
    rw [Memory.read_cons, if_neg (by omega)]
    exact ih hm.2.2

theorem Memory.read_consCell {a : Nat} {v : Byte} {m : Memory} (hm : Memory.wfFrom (a + 1) m = true) (b : Nat) :
    Memory.read (Memory.cons a v m) b = if b = a then v else Memory.read m b := by
  unfold Memory.cons
  split_ifs with h1 h2 h2
  · rw [h2, h1]; exact Memory.read_below (by omega) hm
  · rfl
  · simp [h2]
  · simp [h2]

/-- A read after a write: the byte written at its address, every other byte as before. -/
theorem Memory.read_write_from {lo : Nat} {m : Memory} (hm : Memory.wfFrom lo m = true) (a : Nat) (v : Byte) (b : Nat) :
    Memory.read (Memory.write m a v) b = if b = a then v else Memory.read m b := by
  induction m generalizing lo with
  | nil => exact Memory.read_consCell (m := []) rfl b
  | cons c m ih =>
    obtain ⟨d, w⟩ := c
    rw [Memory.wfFrom_cons_iff] at hm
    unfold Memory.write
    rcases lt_trichotomy a d with h1 | h1 | h1
    · rw [if_pos h1]
      refine Memory.read_consCell ?_ b
      rw [Memory.wfFrom_cons_iff]
      exact ⟨⟨h1, hm.1.2⟩, hm.2⟩
    · subst h1
      rw [if_neg (by omega), if_pos rfl, Memory.read_consCell hm.2.2, Memory.read_cons]
      split_ifs <;> rfl
    · rw [if_neg (by omega), if_neg (by omega), Memory.read_cons, ih hm.2.2, Memory.read_cons]
      split_ifs with h3 h4 <;> first | rfl | omega

theorem Memory.read_write {m : Memory} (hm : m.wf = true) (a : Nat) (v : Byte) (b : Nat) :
    (m.write a v).read b = if b = a then v else m.read b := Memory.read_write_from hm a v b

theorem Memory.wfFrom_cons {a : Nat} {v : Byte} {m : Memory} {lo : Nat} (hlo : lo ≤ a) (ha : a < 256)
    (hm : Memory.wfFrom (a + 1) m = true) : Memory.wfFrom lo (Memory.cons a v m) = true := by
  unfold Memory.cons
  split_ifs with h
  · exact Memory.wfFrom_mono (by omega) hm
  · exact Memory.wfFrom_cons_iff.2 ⟨⟨hlo, ha⟩, h, hm⟩

theorem Memory.wfFrom_write {lo : Nat} {m : Memory} (hm : Memory.wfFrom lo m = true) {a : Nat} (hlo : lo ≤ a)
    (ha : a < 256) (v : Byte) : Memory.wfFrom lo (Memory.write m a v) = true := by
  induction m generalizing lo with
  | nil => exact Memory.wfFrom_cons hlo ha rfl
  | cons c m ih =>
    obtain ⟨d, w⟩ := c
    rw [Memory.wfFrom_cons_iff] at hm
    unfold Memory.write
    split_ifs with h1 h2
    · refine Memory.wfFrom_cons hlo ha ?_
      rw [Memory.wfFrom_cons_iff]
      exact ⟨⟨h1, hm.1.2⟩, hm.2⟩
    · subst h2; exact Memory.wfFrom_cons hlo ha hm.2.2
    · rw [Memory.wfFrom_cons_iff]
      exact ⟨hm.1, hm.2.1, ih hm.2.2 (by omega)⟩

/-- A write inside the address space keeps the canonical form. -/
theorem Memory.wf_write {m : Memory} (hm : m.wf = true) {a : Nat} (ha : a < 256) (v : Byte) :
    (m.write a v).wf = true := Memory.wfFrom_write hm (Nat.zero_le a) ha v

/-- Writing bytes inside the address space keeps the canonical form. -/
theorem Memory.wf_writeBytes {m : Memory} (hm : m.wf = true) {a : Nat} {vs : List Byte} (ha : a + vs.length ≤ 256) :
    (m.writeBytes a vs).wf = true := by
  induction vs generalizing m a with
  | nil => exact hm
  | cons v vs ih =>
    simp only [List.length_cons] at ha
    exact ih (Memory.wf_write hm (by omega) v) (by omega)

/-- A read after writing bytes at consecutive addresses. -/
theorem Memory.read_writeBytes {m : Memory} (hm : m.wf = true) {a : Nat} {vs : List Byte} (ha : a + vs.length ≤ 256)
    (b : Nat) :
    (m.writeBytes a vs).read b = if a ≤ b ∧ b < a + vs.length then vs.getD (b - a) 0 else m.read b := by
  induction vs generalizing m a with
  | nil => simp [Memory.writeBytes]
  | cons v vs ih =>
    simp only [List.length_cons] at ha
    rw [Memory.writeBytes, ih (Memory.wf_write hm (by omega) v) (by omega), Memory.read_write hm]
    simp only [List.length_cons]
    by_cases h : b = a
    · subst h; simp
    · by_cases h1 : a ≤ b ∧ b < a + (vs.length + 1)
      · rw [if_pos (by omega), if_pos h1, show b - a = (b - (a + 1)) + 1 by omega]; rfl
      · rw [if_neg (by omega), if_neg h, if_neg h1]

/-- Canonical memories that read the same are the same data. -/
theorem Memory.eq_of_read_from {lo : Nat} {m n : Memory} (hm : Memory.wfFrom lo m = true) (hn : Memory.wfFrom lo n = true)
    (h : ∀ a, Memory.read m a = Memory.read n a) : m = n := by
  induction m generalizing lo n with
  | nil =>
    cases n with
    | nil => rfl
    | cons c n =>
      obtain ⟨b, w⟩ := c
      rw [Memory.wfFrom_cons_iff] at hn
      exact absurd (by simpa using (h b).symm) hn.2.1
  | cons c m ih =>
    obtain ⟨b, w⟩ := c
    have hm' := hm
    rw [Memory.wfFrom_cons_iff] at hm
    cases n with
    | nil => exact absurd (by simpa using h b) hm.2.1
    | cons c n =>
      obtain ⟨d, u⟩ := c
      have hn' := hn
      rw [Memory.wfFrom_cons_iff] at hn
      have hbd : b = d := by
        rcases lt_trichotomy b d with hlt | heq | hlt
        · have h1 := h b
          rw [Memory.read_cons, if_pos rfl, Memory.read_cons, if_neg (by omega),
            Memory.read_below (by omega) hn.2.2] at h1
          exact absurd h1 hm.2.1
        · exact heq
        · have h1 := h d
          rw [Memory.read_cons, if_neg (by omega), Memory.read_below (by omega) hm.2.2, Memory.read_cons, if_pos rfl] at h1
          exact absurd h1.symm hn.2.1
      subst hbd
      have hw : w = u := by simpa using h b
      subst hw
      refine congrArg _ (ih hm.2.2 hn.2.2 fun a => ?_)
      by_cases hab : a = b
      · subst hab; rw [Memory.read_below (by omega) hm.2.2, Memory.read_below (by omega) hn.2.2]
      · simpa [hab] using h a

theorem Memory.eq_of_read {m n : Memory} (hm : m.wf = true) (hn : n.wf = true) (h : ∀ a, m.read a = n.read a) : m = n :=
  Memory.eq_of_read_from hm hn h

/-- Reset memory has the canonical form. -/
theorem State.reset_memories_wf :
    State.reset.prom.wf = true ∧ State.reset.data.wf = true ∧ State.reset.stack.wf = true := by decide

end Sys2Proof.Machine
end

