-- ==== Sys2Proof/Laws/State.lean ====
section
/-! SUPPORT. One lemma per field of State per update, and what the register ports read after each update. -/

namespace Sys2Proof.Machine

@[simp] theorem State.setReg_x (s : State) (i : Fin 8) (v : Byte) : (s.setReg i v).x = s.x.set i v := rfl
@[simp] theorem State.setReg_prom (s : State) (i : Fin 8) (v : Byte) : (s.setReg i v).prom = s.prom := rfl
@[simp] theorem State.setReg_data (s : State) (i : Fin 8) (v : Byte) : (s.setReg i v).data = s.data := rfl
@[simp] theorem State.setReg_stack (s : State) (i : Fin 8) (v : Byte) : (s.setReg i v).stack = s.stack := rfl
@[simp] theorem State.setReg_sp (s : State) (i : Fin 8) (v : Byte) : (s.setReg i v).sp = s.sp := rfl
@[simp] theorem State.setReg_run (s : State) (i : Fin 8) (v : Byte) : (s.setReg i v).run = s.run := rfl
@[simp] theorem State.setReg_fault (s : State) (i : Fin 8) (v : Byte) : (s.setReg i v).fault = s.fault := rfl
@[simp] theorem State.setReg_out (s : State) (i : Fin 8) (v : Byte) : (s.setReg i v).out = s.out := rfl
@[simp] theorem State.setReg_input (s : State) (i : Fin 8) (v : Byte) : (s.setReg i v).input = s.input := rfl

@[simp] theorem State.setPc_x (s : State) (v : Byte) : (s.setPc v).x = s.x.set 6 v := rfl
@[simp] theorem State.setPc_prom (s : State) (v : Byte) : (s.setPc v).prom = s.prom := rfl
@[simp] theorem State.setPc_data (s : State) (v : Byte) : (s.setPc v).data = s.data := rfl
@[simp] theorem State.setPc_stack (s : State) (v : Byte) : (s.setPc v).stack = s.stack := rfl
@[simp] theorem State.setPc_sp (s : State) (v : Byte) : (s.setPc v).sp = s.sp := rfl
@[simp] theorem State.setPc_run (s : State) (v : Byte) : (s.setPc v).run = s.run := rfl
@[simp] theorem State.setPc_fault (s : State) (v : Byte) : (s.setPc v).fault = s.fault := rfl
@[simp] theorem State.setPc_out (s : State) (v : Byte) : (s.setPc v).out = s.out := rfl
@[simp] theorem State.setPc_input (s : State) (v : Byte) : (s.setPc v).input = s.input := rfl

@[simp] theorem State.storeData_x (s : State) (a v : Byte) : (s.storeData a v).x = s.x := rfl
@[simp] theorem State.storeData_prom (s : State) (a v : Byte) : (s.storeData a v).prom = s.prom := rfl
@[simp] theorem State.storeData_data (s : State) (a v : Byte) : (s.storeData a v).data = s.data.write a.toNat v := rfl
@[simp] theorem State.storeData_stack (s : State) (a v : Byte) : (s.storeData a v).stack = s.stack := rfl
@[simp] theorem State.storeData_sp (s : State) (a v : Byte) : (s.storeData a v).sp = s.sp := rfl
@[simp] theorem State.storeData_run (s : State) (a v : Byte) : (s.storeData a v).run = s.run := rfl
@[simp] theorem State.storeData_fault (s : State) (a v : Byte) : (s.storeData a v).fault = s.fault := rfl
@[simp] theorem State.storeData_out (s : State) (a v : Byte) : (s.storeData a v).out = s.out := rfl
@[simp] theorem State.storeData_input (s : State) (a v : Byte) : (s.storeData a v).input = s.input := rfl

@[simp] theorem State.enterFaulted_x (s : State) (k : FaultKind) : (s.enterFaulted k).x = s.x := rfl
@[simp] theorem State.enterFaulted_prom (s : State) (k : FaultKind) : (s.enterFaulted k).prom = s.prom := rfl
@[simp] theorem State.enterFaulted_data (s : State) (k : FaultKind) : (s.enterFaulted k).data = s.data := rfl
@[simp] theorem State.enterFaulted_stack (s : State) (k : FaultKind) : (s.enterFaulted k).stack = s.stack := rfl
@[simp] theorem State.enterFaulted_sp (s : State) (k : FaultKind) : (s.enterFaulted k).sp = s.sp := rfl
@[simp] theorem State.enterFaulted_run (s : State) (k : FaultKind) : (s.enterFaulted k).run = .faulted := rfl
@[simp] theorem State.enterFaulted_fault (s : State) (k : FaultKind) : (s.enterFaulted k).fault = some ⟨k, s.pc⟩ := rfl
@[simp] theorem State.enterFaulted_out (s : State) (k : FaultKind) : (s.enterFaulted k).out = s.out := rfl
@[simp] theorem State.enterFaulted_input (s : State) (k : FaultKind) : (s.enterFaulted k).input = s.input := rfl

@[simp] theorem haltRun_x (s : State) : (haltRun s).x = s.x := rfl
@[simp] theorem haltRun_prom (s : State) : (haltRun s).prom = s.prom := rfl
@[simp] theorem haltRun_data (s : State) : (haltRun s).data = s.data := rfl
@[simp] theorem haltRun_stack (s : State) : (haltRun s).stack = s.stack := rfl
@[simp] theorem haltRun_sp (s : State) : (haltRun s).sp = s.sp := rfl
@[simp] theorem haltRun_run (s : State) : (haltRun s).run = .halted := rfl
@[simp] theorem haltRun_fault (s : State) : (haltRun s).fault = s.fault := rfl
@[simp] theorem haltRun_out (s : State) : (haltRun s).out = s.out := rfl
@[simp] theorem haltRun_input (s : State) : (haltRun s).input = s.input := rfl

@[simp] theorem outWrite_x (s : State) (v : Byte) : (outWrite v s).x = s.x := rfl
@[simp] theorem outWrite_prom (s : State) (v : Byte) : (outWrite v s).prom = s.prom := rfl
@[simp] theorem outWrite_data (s : State) (v : Byte) : (outWrite v s).data = s.data := rfl
@[simp] theorem outWrite_stack (s : State) (v : Byte) : (outWrite v s).stack = s.stack := rfl
@[simp] theorem outWrite_sp (s : State) (v : Byte) : (outWrite v s).sp = s.sp := rfl
@[simp] theorem outWrite_run (s : State) (v : Byte) : (outWrite v s).run = s.run := rfl
@[simp] theorem outWrite_fault (s : State) (v : Byte) : (outWrite v s).fault = s.fault := rfl
@[simp] theorem outWrite_out (s : State) (v : Byte) : (outWrite v s).out = s.out ++ [v] := rfl
@[simp] theorem outWrite_input (s : State) (v : Byte) : (outWrite v s).input = s.input := rfl

/-- What a cell holds after a write to a cell. -/
@[simp] theorem RegFile.get_set (x : RegFile) (i j : Fin 8) (v : Byte) :
    (x.set i v).get j = if j = i then v else x.get j := by
  fin_cases i <;> fin_cases j <;> rfl

@[simp] theorem State.reg_setReg (s : State) (i j : Fin 8) (v : Byte) :
    (s.setReg i v).reg j = if j = i then v else s.reg j := RegFile.get_set s.x i j v

@[simp] theorem State.reg_setPc (s : State) (j : Fin 8) (v : Byte) :
    (s.setPc v).reg j = if j = 6 then v else s.reg j := RegFile.get_set s.x 6 j v

@[simp] theorem State.pc_setPc (s : State) (v : Byte) : (s.setPc v).pc = v := rfl

@[simp] theorem State.addr_setPc (s : State) (v : Byte) : (s.setPc v).addr = s.addr := rfl

@[simp] theorem State.pc_setReg (s : State) (i : Fin 8) (v : Byte) :
    (s.setReg i v).pc = if i = 6 then v else s.pc := by
  simp [State.pc, eq_comm]

/-- A state that differs in no register has the same register reads. -/
theorem State.reg_congr {s t : State} (h : s.x = t.x) (j : Fin 8) : s.reg j = t.reg j := by
  simp [State.reg, h]

theorem State.pc_congr {s t : State} (h : s.x = t.x) : s.pc = t.pc := State.reg_congr h 6

theorem State.addr_congr {s t : State} (h : s.x = t.x) : s.addr = t.addr := State.reg_congr h 5

/-- Two states with equal fields are equal. -/
theorem State.ext_fields {s t : State} (hx : s.x = t.x) (hp : s.prom = t.prom) (hd : s.data = t.data)
    (hs : s.stack = t.stack) (hsp : s.sp = t.sp) (hr : s.run = t.run) (hf : s.fault = t.fault)
    (ho : s.out = t.out) (hi : s.input = t.input) : s = t := by
  cases s; cases t; simp_all

@[simp] theorem State.storeData_reg (s : State) (a v : Byte) (j : Fin 8) : (s.storeData a v).reg j = s.reg j := rfl
@[simp] theorem State.storeData_pc (s : State) (a v : Byte) : (s.storeData a v).pc = s.pc := rfl
@[simp] theorem State.storeData_addr (s : State) (a v : Byte) : (s.storeData a v).addr = s.addr := rfl
@[simp] theorem State.enterFaulted_reg (s : State) (k : FaultKind) (j : Fin 8) : (s.enterFaulted k).reg j = s.reg j := rfl
@[simp] theorem State.enterFaulted_pc (s : State) (k : FaultKind) : (s.enterFaulted k).pc = s.pc := rfl
@[simp] theorem State.enterFaulted_addr (s : State) (k : FaultKind) : (s.enterFaulted k).addr = s.addr := rfl
@[simp] theorem haltRun_reg (s : State) (j : Fin 8) : (haltRun s).reg j = s.reg j := rfl
@[simp] theorem haltRun_pc (s : State) : (haltRun s).pc = s.pc := rfl
@[simp] theorem outWrite_reg (v : Byte) (s : State) (j : Fin 8) : (outWrite v s).reg j = s.reg j := rfl
@[simp] theorem outWrite_pc (v : Byte) (s : State) : (outWrite v s).pc = s.pc := rfl
@[simp] theorem State.with_input_reg (s : State) (w : List InputItem) (j : Fin 8) : ({ s with input := w } : State).reg j = s.reg j := rfl
@[simp] theorem State.with_input_pc (s : State) (w : List InputItem) : ({ s with input := w } : State).pc = s.pc := rfl
@[simp] theorem State.with_input_addr (s : State) (w : List InputItem) : ({ s with input := w } : State).addr = s.addr := rfl
@[simp] theorem State.with_data_reg (s : State) (w : Memory) (j : Fin 8) : ({ s with data := w } : State).reg j = s.reg j := rfl
@[simp] theorem State.with_data_pc (s : State) (w : Memory) : ({ s with data := w } : State).pc = s.pc := rfl
@[simp] theorem State.with_data_addr (s : State) (w : Memory) : ({ s with data := w } : State).addr = s.addr := rfl
@[simp] theorem State.with_prom_reg (s : State) (w : Memory) (j : Fin 8) : ({ s with prom := w } : State).reg j = s.reg j := rfl
@[simp] theorem State.with_prom_pc (s : State) (w : Memory) : ({ s with prom := w } : State).pc = s.pc := rfl
@[simp] theorem State.with_prom_addr (s : State) (w : Memory) : ({ s with prom := w } : State).addr = s.addr := rfl
@[simp] theorem State.with_stack_reg (s : State) (w : Memory) (j : Fin 8) : ({ s with stack := w } : State).reg j = s.reg j := rfl
@[simp] theorem State.with_stack_pc (s : State) (w : Memory) : ({ s with stack := w } : State).pc = s.pc := rfl
@[simp] theorem State.with_stack_addr (s : State) (w : Memory) : ({ s with stack := w } : State).addr = s.addr := rfl

end Sys2Proof.Machine
end

