-- ==== Sys2Proof/Laws/Ops.lean ====
section
/-! SUPPORT. One lemma per shared operation, saying once everything it can do. -/

namespace Sys2Proof.Machine

/-! ## The parts of a cycle -/

section
variable {α β γ : Type}

@[simp] theorem Result.andThen_ok (v : α) (s : State) (f : α → State → Result β) :
    (Result.ok v s).andThen f = f v s := rfl

@[simp] theorem Result.andThen_raise (k : FaultKind) (s : State) (f : α → State → Result β) :
    (Result.raise k s).andThen f = .raise k s := rfl

@[simp] theorem Result.andThen_wait (f : α → State → Result β) : (Result.wait).andThen f = .wait := rfl

theorem Result.andThen_assoc (r : Result α) (f : α → State → Result β) (g : β → State → Result γ) :
    (r.andThen f).andThen g = r.andThen fun v s => (f v s).andThen g := by
  cases r <;> rfl

/-- A part of a cycle gives a value only where its first part does. -/
theorem Result.andThen_eq_ok {r : Result α} {f : α → State → Result β} {w : β} {t : State} :
    r.andThen f = .ok w t ↔ ∃ v s, r = .ok v s ∧ f v s = .ok w t := by
  cases r <;> simp

/-- A part of a cycle faults where its first part does, or where what follows does. -/
theorem Result.andThen_eq_raise {r : Result α} {f : α → State → Result β} {k : FaultKind} {t : State} :
    r.andThen f = .raise k t ↔ r = .raise k t ∨ ∃ v s, r = .ok v s ∧ f v s = .raise k t := by
  cases r <;> simp

/-- A part of a cycle waits where its first part does, or where what follows does. -/
theorem Result.andThen_eq_wait {r : Result α} {f : α → State → Result β} :
    r.andThen f = .wait ↔ r = .wait ∨ ∃ v s, r = .ok v s ∧ f v s = .wait := by
  cases r <;> simp
end

@[simp] theorem Result.finish_ok (u : Unit) (s : State) : (Result.ok u s).finish = .next s := rfl

@[simp] theorem Result.finish_raise (k : FaultKind) (s : State) :
    (Result.raise k s : Result Unit).finish = .next (s.enterFaulted k) := rfl

@[simp] theorem Result.finish_wait : (Result.wait : Result Unit).finish = .fault .awaitingInput := rfl

/-- A cycle's next state: the state its parts reach, or the fault entered where one was raised. -/
theorem Result.finish_eq_next {r : Result Unit} {t : State} :
    r.finish = .next t ↔ r = .ok () t ∨ ∃ k s, r = .raise k s ∧ t = s.enterFaulted k := by
  cases r <;> simp [eq_comm]

/-- A cycle stops only waiting for input. -/
theorem Result.finish_eq_fault {r : Result Unit} {e : Fault} :
    r.finish = .fault e ↔ r = .wait ∧ e = .awaitingInput := by
  cases r <;> simp [eq_comm]

theorem Result.finish_ne_refused (r : Result Unit) (e : Refusal) : r.finish ≠ .refused e := by
  cases r <;> simp

/-! ## The PC's advance -/

/-- The advance adds 4 up to address 251, and past it raises FetchFault(OutOfRange) with the PC unchanged. -/
theorem advance_eq (s : State) :
    advance s = if s.pc.toNat ≤ 251 then .ok () (s.setPc (s.pc + 4)) else .raise (.fetch .outOfRange) s := by
  have h := s.pc.isLt
  unfold advance
  by_cases hp : s.pc.toNat ≤ 251
  · have h1 : s.pc.setWidth 9 + 4#9 ≤ 255#9 := by simp [BitVec.le_def]; omega
    have h2 : (s.pc.setWidth 9 + 4#9).setWidth 8 = s.pc + 4 := by
      apply BitVec.eq_of_toNat_eq; simp
    simp only [h1, if_true, hp, h2]
  · have h1 : ¬ s.pc.setWidth 9 + 4#9 ≤ 255#9 := by simp [BitVec.le_def]; omega
    simp only [h1, if_false, hp]

theorem advance_ok {s : State} (h : s.pc.toNat ≤ 251) : advance s = .ok () (s.setPc (s.pc + 4)) := by
  rw [advance_eq, if_pos h]

theorem advance_off_end {s : State} (h : 252 ≤ s.pc.toNat) : advance s = .raise (.fetch .outOfRange) s := by
  rw [advance_eq, if_neg (by omega)]

/-- An advance faults only off the end, in the state it is tried in. -/
theorem advance_eq_raise {s t : State} {k : FaultKind} (h : advance s = .raise k t) :
    k = .fetch .outOfRange ∧ t = s ∧ 252 ≤ s.pc.toNat := by
  by_cases hp : s.pc.toNat ≤ 251
  · rw [advance_ok hp] at h; cases h
  · rw [advance_off_end (by omega)] at h; cases h
    exact ⟨rfl, rfl, by omega⟩

/-! ## The console ports -/

/-- Everything `inRead` can do: consume a byte, fault on a bad line or at the end of input, or wait. -/
theorem inRead_cases (s : State) :
    (∃ v rest, s.input = .byte v :: rest ∧ inRead s = .ok v { s with input := rest }) ∨
    (∃ rest, s.input = .bad :: rest ∧ inRead s = .raise (.input .malformed) { s with input := rest }) ∨
    (∃ rest, s.input = .eof :: rest ∧ inRead s = .raise (.input .endOfInput) s) ∨
    (s.input = [] ∧ inRead s = .wait) := by
  unfold inRead
  rcases hi : s.input with _ | ⟨_ | _ | _, rest⟩ <;> simp

/-! ## The stack controller -/

theorem push_ok {s : State} (h : s.sp < 256) (v : Byte) :
    push v s = .ok () { s with stack := s.stack.write s.sp v, sp := s.sp + 1 } := if_pos h

theorem push_full {s : State} (h : 256 ≤ s.sp) (v : Byte) : push v s = .raise (.stack .overflow) s :=
  if_neg (by simpa using h)

theorem pop_empty {s : State} (h : s.sp = 0) : pop s = .raise (.stack .underflow) s := if_pos h

theorem pop_ok {s : State} (h : s.sp ≠ 0) : pop s = .ok (s.stack.read (s.sp - 1)) { s with sp := s.sp - 1 } :=
  if_neg h

/-! ## The step -/

theorem step_halted {s : State} (h : s.run = .halted) : step s = .fault .halted := by
  simp [step, stopReason, h]

theorem step_faulted {s : State} (h : s.run = .faulted) : step s = .fault .faulted := by
  simp [step, stopReason, h]

/-- A cycle from Running: the instruction at an aligned PC is executed, a misaligned PC faults. -/
theorem step_running {s : State} (h : s.run = .running) :
    step s = if aligned s.pc then exec s.instrAtPc s else .next (s.enterFaulted (.fetch .misaligned)) := by
  unfold step fetchInstr
  by_cases ha : aligned s.pc = true <;> simp [stopReason, h, ha]

/-- Everything a cycle with a next state can be. -/
theorem step_eq_next {s t : State} (h : step s = .next t) :
    s.run = .running ∧
      ((aligned s.pc = true ∧ exec s.instrAtPc s = .next t) ∨
        (aligned s.pc = false ∧ t = s.enterFaulted (.fetch .misaligned))) := by
  rcases hr : s.run with _ | _ | _
  · refine ⟨rfl, ?_⟩
    rw [step_running hr] at h
    by_cases ha : aligned s.pc = true
    · rw [if_pos ha] at h; exact .inl ⟨ha, h⟩
    · rw [if_neg ha] at h
      exact .inr ⟨by simpa using ha, by simpa [eq_comm] using h⟩
  · rw [step_halted hr] at h; cases h
  · rw [step_faulted hr] at h; cases h

end Sys2Proof.Machine
end

