-- ==== Sys2Proof/Laws/Operands.lean ====
section
/-! SUPPORT. What reading and writing by a register index byte does, and what resolving operands can do. -/

namespace Sys2Proof.Machine

@[simp] theorem regSel_io : regSel 7#8 = .io := rfl

/-- Indices 0..6 name their cell. -/
theorem regSel_cell {i : Byte} (h : i.toNat ≤ 6) : regSel i = .cell ⟨i.toNat, by omega⟩ := by
  have h7 : i ≠ 7#8 := fun e => by subst e; simp at h
  unfold regSel
  rw [if_neg h7, dif_pos (by omega)]

/-- Indices 8..255 name nothing. -/
theorem regSel_invalid {i : Byte} (h : 8 ≤ i.toNat) : regSel i = .invalid := by
  have h7 : i ≠ 7#8 := fun e => by subst e; simp at h
  unfold regSel
  rw [if_neg h7, dif_neg (by omega)]

/-- The three things an index byte can name. -/
theorem regSel_cases (i : Byte) :
    (i = 7#8 ∧ regSel i = .io) ∨ (∃ h : i.toNat ≤ 6, regSel i = .cell ⟨i.toNat, by omega⟩) ∨
      (8 ≤ i.toNat ∧ regSel i = .invalid) := by
  rcases Nat.lt_trichotomy i.toNat 7 with h | h | h
  · exact .inr (.inl ⟨by omega, regSel_cell (by omega)⟩)
  · have : i = 7#8 := BitVec.eq_of_toNat_eq h
    subst this; exact .inl ⟨rfl, rfl⟩
  · exact .inr (.inr ⟨h, regSel_invalid h⟩)

theorem readReg_io (s : State) : readReg 7#8 s = inRead s := rfl

theorem readReg_cell {i : Byte} (h : i.toNat ≤ 6) (s : State) : readReg i s = .ok (s.reg ⟨i.toNat, by omega⟩) s := by
  unfold readReg; rw [regSel_cell h]

theorem readReg_invalid {i : Byte} (h : 8 ≤ i.toNat) (s : State) : readReg i s = .raise .registerIndex s := by
  unfold readReg; rw [regSel_invalid h]

theorem writeReg_io (v : Byte) (s : State) : writeReg 7#8 v s = .ok () (outWrite v s) := rfl

theorem writeReg_cell {i : Byte} (h : i.toNat ≤ 6) (v : Byte) (s : State) :
    writeReg i v s = .ok () (s.setReg ⟨i.toNat, by omega⟩ v) := by
  unfold writeReg; rw [regSel_cell h]

theorem writeReg_invalid {i : Byte} (h : 8 ≤ i.toNat) (v : Byte) (s : State) :
    writeReg i v s = .raise .registerIndex s := by
  unfold writeReg; rw [regSel_invalid h]

@[simp] theorem resolve_imm (v : Byte) (s : State) : resolve (.imm v) s = .ok v s := rfl

@[simp] theorem resolve_reg (i : Byte) (s : State) : resolve (.reg i) s = readReg i s := rfl

/-- Everything a resolution can do: at most, items are consumed from the front of the input. -/
theorem resolve_cases (o : Operand) (s : State) :
    (∃ v rest, rest <:+ s.input ∧ resolve o s = .ok v { s with input := rest }) ∨
    (∃ k rest, rest <:+ s.input ∧ (k = .registerIndex ∨ k = .input .malformed ∨ k = .input .endOfInput) ∧
      resolve o s = .raise k { s with input := rest }) ∨
    (s.input = [] ∧ resolve o s = .wait) := by
  cases o with
  | imm v => exact .inl ⟨v, s.input, List.suffix_refl _, rfl⟩
  | reg i =>
    rw [resolve_reg]
    rcases regSel_cases i with ⟨rfl, -⟩ | ⟨h, -⟩ | ⟨h, -⟩
    · rw [readReg_io]
      rcases inRead_cases s with ⟨v, rest, hi, h⟩ | ⟨rest, hi, h⟩ | ⟨rest, hi, h⟩ | ⟨hi, h⟩
      · exact .inl ⟨v, rest, hi ▸ List.suffix_cons _ _, h⟩
      · exact .inr (.inl ⟨_, rest, hi ▸ List.suffix_cons _ _, .inr (.inl rfl), h⟩)
      · exact .inr (.inl ⟨_, s.input, List.suffix_refl _, .inr (.inr rfl), h⟩)
      · exact .inr (.inr ⟨hi, h⟩)
    · exact .inl ⟨_, s.input, List.suffix_refl _, readReg_cell h s⟩
    · exact .inr (.inl ⟨_, s.input, List.suffix_refl _, .inl rfl, readReg_invalid h s⟩)

/-- A resolved operand leaves everything but the input. -/
theorem resolve_ok {o : Operand} {s t : State} {v : Byte} (h : resolve o s = .ok v t) :
    ∃ rest, rest <:+ s.input ∧ t = { s with input := rest } := by
  rcases resolve_cases o s with ⟨w, rest, hr, e⟩ | ⟨k, rest, hr, -, e⟩ | ⟨-, e⟩ <;> rw [e] at h <;> cases h
  exact ⟨rest, hr, rfl⟩

/-- A fault in a resolution leaves everything but the input. -/
theorem resolve_raise {o : Operand} {s t : State} {k : FaultKind} (h : resolve o s = .raise k t) :
    ∃ rest, rest <:+ s.input ∧ t = { s with input := rest } := by
  rcases resolve_cases o s with ⟨w, rest, hr, e⟩ | ⟨k, rest, hr, -, e⟩ | ⟨-, e⟩ <;> rw [e] at h <;> cases h
  exact ⟨rest, hr, rfl⟩

/-- Both operands, once the left one is known. -/
theorem resolveBoth_of_ok {l r : Operand} {s s1 s2 : State} {L R : Byte} (hl : resolve l s = .ok L s1)
    (hr : resolve r s1 = .ok R s2) : resolveBoth l r s = .ok (L, R) s2 := by
  simp [resolveBoth, hl, hr]

/-- Everything resolving both operands can do. -/
theorem resolveBoth_cases (l r : Operand) (s : State) :
    (∃ v rest, rest <:+ s.input ∧ resolveBoth l r s = .ok v { s with input := rest }) ∨
    (∃ k rest, rest <:+ s.input ∧ (k = .registerIndex ∨ k = .input .malformed ∨ k = .input .endOfInput) ∧
      resolveBoth l r s = .raise k { s with input := rest }) ∨
    resolveBoth l r s = .wait := by
  unfold resolveBoth
  rcases resolve_cases l s with ⟨L, rest, hs, e⟩ | ⟨k, rest, hs, hk, e⟩ | ⟨-, e⟩
  · rw [e, Result.andThen_ok]
    rcases resolve_cases r { s with input := rest } with ⟨R, rest', hs', e'⟩ | ⟨k, rest', hs', hk, e'⟩ | ⟨-, e'⟩
    · exact .inl ⟨(L, R), rest', hs'.trans hs, by rw [e']; rfl⟩
    · exact .inr (.inl ⟨k, rest', hs'.trans hs, hk, by rw [e']; rfl⟩)
    · exact .inr (.inr (by rw [e']; rfl))
  · exact .inr (.inl ⟨k, rest, hs, hk, by rw [e]; rfl⟩)
  · exact .inr (.inr (by rw [e]; rfl))

/-- Both operands resolved: the left one first, then the right one from the state after it. -/
theorem resolveBoth_eq_ok {l r : Operand} {s t : State} {v : Byte × Byte} (h : resolveBoth l r s = .ok v t) :
    ∃ s1, resolve l s = .ok v.1 s1 ∧ resolve r s1 = .ok v.2 t := by
  unfold resolveBoth at h
  obtain ⟨L, s1, h1, h2⟩ := Result.andThen_eq_ok.1 h
  obtain ⟨R, s2, h3, h4⟩ := Result.andThen_eq_ok.1 h2
  cases h4
  exact ⟨s1, h1, h3⟩

/-! ## Writing a result back -/

/-- A result to r0..r5 is written, and the PC advances. -/
theorem writeBack_cell {c : Byte} (h : c.toNat ≤ 5) (v : Byte) (s : State) :
    writeBack c v s = advance (s.setReg ⟨c.toNat, by omega⟩ v) := by
  have h6 : c ≠ 6#8 := fun e => by subst e; simp at h
  unfold writeBack
  rw [writeReg_cell (by omega), Result.andThen_ok, if_neg h6]

/-- A result to r6 is a jump. -/
theorem writeBack_pc (v : Byte) (s : State) : writeBack 6#8 v s = .ok () (s.setPc v) := rfl

/-- A result to r7 is printed, and the PC advances. -/
theorem writeBack_io (v : Byte) (s : State) : writeBack 7#8 v s = advance (outWrite v s) := rfl

/-- A result to an index of 8 or more faults. -/
theorem writeBack_invalid {c : Byte} (h : 8 ≤ c.toNat) (v : Byte) (s : State) :
    writeBack c v s = .raise .registerIndex s := by
  unfold writeBack; rw [writeReg_invalid h]; rfl

/-- A write-back runs off the end only after the result is written, and never for r6. -/
theorem writeBack_eq_off_end {c v : Byte} {s t : State} (h : writeBack c v s = .raise (.fetch .outOfRange) t) :
    c ≠ 6#8 ∧ writeReg c v s = .ok () t ∧ 252 ≤ t.pc.toNat := by
  unfold writeBack at h
  rcases Result.andThen_eq_raise.1 h with h | ⟨_, u, h1, h2⟩
  · rcases regSel_cases c with ⟨rfl, -⟩ | ⟨hc, -⟩ | ⟨hc, -⟩
    · rw [writeReg_io] at h; cases h
    · rw [writeReg_cell hc] at h; cases h
    · rw [writeReg_invalid hc] at h; cases h
  · split_ifs at h2 with h6
    obtain ⟨-, rfl, hp⟩ := advance_eq_raise h2
    exact ⟨h6, h1, hp⟩

/-- The four kinds of destination. -/
theorem dest_cases (c : Byte) : c.toNat ≤ 5 ∨ c = 6#8 ∨ c = 7#8 ∨ 8 ≤ c.toNat := by
  rcases Nat.lt_or_ge c.toNat 6 with h | h
  · exact .inl (by omega)
  · rcases Nat.lt_or_ge c.toNat 8 with h8 | h8
    · rcases (show c.toNat = 6 ∨ c.toNat = 7 by omega) with h' | h'
      · exact .inr (.inl (BitVec.eq_of_toNat_eq h'))
      · exact .inr (.inr (.inl (BitVec.eq_of_toNat_eq h')))
    · exact .inr (.inr (.inr h8))

end Sys2Proof.Machine
end

