-- ==== Sys2Proof/Laws/Dispatch.lean ====
section
/-! SUPPORT. The sixty-seven arms of `exec` fall into nine shared bodies; and what each body can do. -/

namespace Sys2Proof.Machine

theorem producesResult_of_alu {i : Instr} {f : AluOp} (h : aluOperationOf i.fields.opclass = some f) :
    ProducesResult i := by
  have : ∀ k : BitVec 6, (aluOperationOf k).isSome = true → k.toNat ∈ [0, 1, 2, 3, 4, 5, 8, 9, 12, 13, 24, 25] := by
    decide
  exact this _ (by simp [h])

theorem isBranch_of_relation {i : Instr} {q : Rel} (h : branchConditionOf i.fields.opclass = some q) : IsBranch i := by
  have : ∀ k : BitVec 6, (branchConditionOf k).isSome = true → k.toNat ∈ [32, 33, 34, 35, 36, 37] := by decide
  exact this _ (by simp [h])

/-- The body each instruction runs, by its opclass. -/
theorem exec_forms (i : Instr) :
    (∃ f, aluOperationOf i.fields.opclass = some f ∧
      ∀ s, exec i s = aluInstr f i.fields.left i.fields.right i.fields.c s) ∨
    (∃ q, branchConditionOf i.fields.opclass = some q ∧
      ∀ s, exec i s = branchInstr q i.fields.left i.fields.right i.fields.c s) ∨
    (i.fields.opclass = 16#6 ∧ ∀ s, exec i s = execStore i.fields.left i.fields.right i.fields.c s) ∨
    (i.fields.opclass = 24#6 ∧ ∀ s, exec i s = execLoad i.fields.left i.fields.right i.fields.c s) ∨
    (i.fields.opclass = 25#6 ∧ ∀ s, exec i s = execLoadp i.fields.left i.fields.right i.fields.c s) ∨
    (i.fields.opclass = 38#6 ∧ ∀ s, exec i s = execCall i.fields.left i.fields.right i.fields.c s) ∨
    (i.fields.opclass = 39#6 ∧ ∀ s, exec i s = execRet i.fields.left i.fields.right i.fields.c s) ∨
    (IsNop i ∧ ∀ s, exec i s = nopInstr i.fields.left i.fields.right s) ∨
    (i.fields.opclass = 63#6 ∧ i.fields.left.isImmediate = true ∧ i.fields.right.isImmediate = true ∧
      ∀ s, exec i s = .next (haltRun s)) := by
  cases i
  case or | and | add | sub | not | xor | shl | shr | mod | div => exact .inl ⟨_, rfl, fun _ => rfl⟩
  case beq | bne | blt | ble | bgt | bge => exact .inr (.inl ⟨_, rfl, fun _ => rfl⟩)
  case store => exact .inr (.inr (.inl ⟨rfl, fun _ => rfl⟩))
  case load => exact .inr (.inr (.inr (.inl ⟨rfl, fun _ => rfl⟩)))
  case loadp => exact .inr (.inr (.inr (.inr (.inl ⟨rfl, fun _ => rfl⟩))))
  case call => exact .inr (.inr (.inr (.inr (.inr (.inl ⟨rfl, fun _ => rfl⟩)))))
  case ret => exact .inr (.inr (.inr (.inr (.inr (.inr (.inl ⟨rfl, fun _ => rfl⟩))))))
  case halt => exact .inr (.inr (.inr (.inr (.inr (.inr (.inr (.inr ⟨rfl, rfl, rfl, fun _ => rfl⟩)))))))
  all_goals
    exact .inr (.inr (.inr (.inr (.inr (.inr (.inr (.inl
      ⟨by simp [IsNop, ProducesResult, IsBranch, Instr.fields, Operand.isImmediate], fun _ => rfl⟩)))))))

/-- What a cycle does before its operands are resolved or while they are: an operand's fault, or a wait. -/
theorem resolveBoth_then_next {l r : Operand} {s t : State} {f : Byte × Byte → State → Result Unit}
    (h : ((resolveBoth l r s).andThen f).finish = .next t) :
    (∃ v rest, rest <:+ s.input ∧ resolveBoth l r s = .ok v { s with input := rest } ∧
      (f v { s with input := rest }).finish = .next t) ∨
    (∃ k rest, rest <:+ s.input ∧ (k = .registerIndex ∨ k = .input .malformed ∨ k = .input .endOfInput) ∧
      t = ({ s with input := rest } : State).enterFaulted k) := by
  rcases resolveBoth_cases l r s with ⟨v, rest, hs, e⟩ | ⟨k, rest, hs, hk, e⟩ | e
  · exact .inl ⟨v, rest, hs, e, by rw [e] at h; exact h⟩
  · refine .inr ⟨k, rest, hs, hk, ?_⟩
    rw [e] at h
    simpa [eq_comm] using h
  · rw [e] at h; simp at h

/-- The end of a cycle that advances: four on, or off the end. -/
theorem advance_finish (s : State) :
    (advance s).finish = .next (if s.pc.toNat ≤ 251 then s.setPc (s.pc + 4) else s.enterFaulted (.fetch .outOfRange)) := by
  rw [advance_eq]; split_ifs <;> rfl

/-- The end of a cycle that writes a result back, by its destination. -/
theorem writeBack_finish (c v : Byte) (s : State) :
    (∃ h : c.toNat ≤ 5, (writeBack c v s).finish = (advance (s.setReg ⟨c.toNat, by omega⟩ v)).finish) ∨
    (c = 6#8 ∧ (writeBack c v s).finish = .next (s.setPc v)) ∨
    (c = 7#8 ∧ (writeBack c v s).finish = (advance (outWrite v s)).finish) ∨
    (8 ≤ c.toNat ∧ (writeBack c v s).finish = .next (s.enterFaulted .registerIndex)) := by
  rcases dest_cases c with h | rfl | rfl | h
  · exact .inl ⟨h, by rw [writeBack_cell h]⟩
  · exact .inr (.inl ⟨rfl, rfl⟩)
  · exact .inr (.inr (.inl ⟨rfl, rfl⟩))
  · exact .inr (.inr (.inr ⟨h, by rw [writeBack_invalid h]; rfl⟩))

/-- Everything the next state of an instruction can be: before the choice, items may have been consumed. -/
def ExecNext (i : Instr) (s t : State) : Prop :=
  ∃ rest, rest <:+ s.input ∧
    let s1 : State := { s with input := rest }
    -- a fault before any effect
    ((∃ k, k ≠ .fetch .outOfRange ∧ t = s1.enterFaulted k) ∨
    -- HALT
    (i.fields.opclass = 63#6 ∧ i.fields.left.isImmediate = true ∧ i.fields.right.isImmediate = true ∧ t = haltRun s) ∨
    -- a jump: a result for the PC, or a taken branch
    (∃ v, ((ProducesResult i ∧ i.fields.c = 6#8) ∨ IsBranch i ∧ v = i.fields.c) ∧ t = s1.setPc v) ∨
    -- CALL
    (i.fields.opclass = 38#6 ∧ s.sp < 256 ∧
      t = ({ s1 with stack := s.stack.write s.sp s.pc, sp := s.sp + 1 } : State).setPc i.fields.c) ∨
    -- an effect, and then the PC's advance
    (∃ u : State,
      ((u = s1 ∧ (IsBranch i ∨ IsNop i)) ∨
        (ProducesResult i ∧ ∃ h : i.fields.c.toNat ≤ 5, ∃ v, u = s1.setReg ⟨i.fields.c.toNat, by omega⟩ v) ∨
        (ProducesResult i ∧ i.fields.c = 7#8 ∧ ∃ v, u = outWrite v s1) ∨
        (i.fields.opclass = 16#6 ∧ ∃ v, u = s1.storeData s.addr v) ∨
        (i.fields.opclass = 39#6 ∧ 0 < s.sp ∧ rest = s.input ∧
          u = ({ s with sp := s.sp - 1 } : State).setPc (s.stack.read (s.sp - 1)))) ∧
      t = if u.pc.toNat ≤ 251 then u.setPc (u.pc + 4) else u.enterFaulted (.fetch .outOfRange)))

theorem execNext_of_writeBack {i : Instr} {s t : State} {rest : List InputItem} (hs : rest <:+ s.input) {v : Byte}
    (hp : ProducesResult i) (h : (writeBack i.fields.c v { s with input := rest }).finish = .next t) : ExecNext i s t := by
  refine ⟨rest, hs, ?_⟩
  rcases writeBack_finish i.fields.c v { s with input := rest } with ⟨hc, e⟩ | ⟨hc, e⟩ | ⟨hc, e⟩ | ⟨hc, e⟩
  · rw [e, advance_finish] at h
    cases h
    exact .inr (.inr (.inr (.inr ⟨_, .inr (.inl ⟨hp, hc, v, rfl⟩), rfl⟩)))
  · rw [e] at h; cases h
    exact .inr (.inr (.inl ⟨v, .inl ⟨hp, hc⟩, rfl⟩))
  · rw [e, advance_finish] at h; cases h
    exact .inr (.inr (.inr (.inr ⟨_, .inr (.inr (.inl ⟨hp, hc, v, rfl⟩)), rfl⟩)))
  · rw [e] at h; cases h
    exact .inl ⟨_, by simp, rfl⟩

/-- The inversion of `exec`, for every instruction at once. -/
theorem exec_next {i : Instr} {s t : State} (h : exec i s = .next t) : ExecNext i s t := by
  have opf : ∀ {k : FaultKind}, (k = .registerIndex ∨ k = .input .malformed ∨ k = .input .endOfInput) →
      k ≠ .fetch .outOfRange := by
    rintro k (rfl | rfl | rfl) <;> simp
  rcases exec_forms i with ⟨f, hf, hx⟩ | ⟨q, hq, hx⟩ | ⟨hk, hx⟩ | ⟨hk, hx⟩ | ⟨hk, hx⟩ | ⟨hk, hx⟩ | ⟨hk, hx⟩ | ⟨hk, hx⟩ | ⟨h1, h2, h3, hx⟩
  all_goals rw [hx] at h
  · rcases resolveBoth_then_next h with ⟨v, rest, hs, -, h⟩ | ⟨k, rest, hs, hk, e⟩
    · unfold aluResult at h
      cases ha : alu f v.1 v.2 with
      | error e => rw [ha] at h; simp at h; exact ⟨rest, hs, .inl ⟨.arithmetic e, by simp, h.symm⟩⟩
      | ok w => rw [ha] at h; exact execNext_of_writeBack hs (producesResult_of_alu hf) h
    · exact ⟨rest, hs, .inl ⟨k, opf hk, e⟩⟩
  · rcases resolveBoth_then_next h with ⟨v, rest, hs, -, h⟩ | ⟨k, rest, hs, hk, e⟩
    · by_cases hh : holds q v.1 v.2 = true
      · rw [if_pos hh] at h; cases h
        exact ⟨rest, hs, .inr (.inr (.inl ⟨_, .inr ⟨isBranch_of_relation hq, rfl⟩, rfl⟩))⟩
      · rw [if_neg hh, advance_finish] at h; cases h
        exact ⟨rest, hs, .inr (.inr (.inr (.inr ⟨_, .inl ⟨rfl, .inl (isBranch_of_relation hq)⟩, rfl⟩)))⟩
    · exact ⟨rest, hs, .inl ⟨k, opf hk, e⟩⟩
  · rcases resolveBoth_then_next h with ⟨v, rest, hs, -, h⟩ | ⟨k, rest, hs, hk', e⟩
    · rw [advance_finish] at h; cases h
      exact ⟨rest, hs, .inr (.inr (.inr (.inr ⟨_, .inr (.inr (.inr (.inl ⟨hk, v.1, rfl⟩))), rfl⟩)))⟩
    · exact ⟨rest, hs, .inl ⟨k, opf hk', e⟩⟩
  · rcases resolveBoth_then_next h with ⟨v, rest, hs, -, h⟩ | ⟨k, rest, hs, hk', e⟩
    · exact execNext_of_writeBack hs (by simp [ProducesResult, hk]) h
    · exact ⟨rest, hs, .inl ⟨k, opf hk', e⟩⟩
  · rcases resolveBoth_then_next h with ⟨v, rest, hs, -, h⟩ | ⟨k, rest, hs, hk', e⟩
    · exact execNext_of_writeBack hs (by simp [ProducesResult, hk]) h
    · exact ⟨rest, hs, .inl ⟨k, opf hk', e⟩⟩
  · rcases resolveBoth_then_next h with ⟨v, rest, hs, -, h⟩ | ⟨k, rest, hs, hk', e⟩
    · by_cases hsp : s.sp < 256
      · rw [push_ok (by exact hsp)] at h; cases h
        exact ⟨rest, hs, .inr (.inr (.inr (.inl ⟨hk, hsp, rfl⟩)))⟩
      · rw [push_full (by exact not_lt.1 hsp)] at h; cases h
        exact ⟨rest, hs, .inl ⟨_, by simp, rfl⟩⟩
    · exact ⟨rest, hs, .inl ⟨k, opf hk', e⟩⟩
  · unfold execRet at h
    by_cases hsp : s.sp = 0
    · rw [pop_empty hsp] at h; cases h
      exact ⟨s.input, List.suffix_refl _, .inl ⟨_, by simp, rfl⟩⟩
    · rw [pop_ok hsp, Result.andThen_ok, advance_finish] at h; cases h
      exact ⟨s.input, List.suffix_refl _, .inr (.inr (.inr (.inr ⟨_, .inr (.inr (.inr (.inr ⟨hk, by omega, rfl, rfl⟩))), rfl⟩)))⟩
  · rcases resolveBoth_then_next h with ⟨v, rest, hs, -, h⟩ | ⟨k, rest, hs, hk', e⟩
    · rw [advance_finish] at h; cases h
      exact ⟨rest, hs, .inr (.inr (.inr (.inr ⟨_, .inl ⟨rfl, .inr hk⟩, rfl⟩)))⟩
    · exact ⟨rest, hs, .inl ⟨k, opf hk', e⟩⟩
  · cases h
    exact ⟨s.input, List.suffix_refl _, .inr (.inl ⟨h1, h2, h3, rfl⟩)⟩

end Sys2Proof.Machine
end

