-- ==== Sys2Proof/Laws/PerInstr.lean ====
section
/-! SUPPORT. The per-instruction family: each instruction's encoding lies in its own row of spec/opcode_table.json. -/

namespace Sys2Proof.Laws.EncodesInTableRow

/-- The opcode byte of `i` lies in the opcode-table row of the mnemonic of `i`. -/
def Statement (i : Instr) : Prop :=
  ∃ row ∈ opcodeTable, row.mnemonic = i.mnemonic ∧
    row.Matches i.opcode = true

/-- An operation's row. -/
theorem of_operation {i : Instr} (k : BitVec 6) (row : TableRow) (h : row ∈ operationRows) (hm : row.mnemonic = i.mnemonic)
    (hk : i.fields.opclass = k) (ho : ∀ il ir, row.Matches (opcodeByte il ir k) = true) : Statement i :=
  ⟨row, List.mem_append_left _ (List.mem_append_left _ h), hm, by rw [Instr.opcode, hk]; exact ho _ _⟩

/-- A no-op's row. -/
theorem of_nop {i : Instr} (k : BitVec 6) (row : TableRow) (h : row ∈ nopRows) (hm : row.mnemonic = i.mnemonic)
    (hk : i.fields.opclass = k) (ho : ∀ il ir, row.Matches (opcodeByte il ir k) = true) : Statement i :=
  ⟨row, List.mem_append_left _ (List.mem_append_right _ h), hm, by rw [Instr.opcode, hk]; exact ho _ _⟩

/-- A row of opclass 63. -/
theorem of_class63 {i : Instr} (il ir : Bool) (row : TableRow) (h : row ∈ class63Rows) (hm : row.mnemonic = i.mnemonic)
    (hi : i.opcode = opcodeByte il ir 63) (ho : row.Matches (opcodeByte il ir 63) = true) : Statement i :=
  ⟨row, List.mem_append_right _ h, hm, by rw [hi]; exact ho⟩

theorem or (l r : Operand) (c : Byte) : Statement (.or l r c) :=
  of_operation 0 (.ofClass 0 "OR") (by simp [operationRows]) rfl rfl (by decide)

theorem and (l r : Operand) (c : Byte) : Statement (.and l r c) :=
  of_operation 1 (.ofClass 1 "AND") (by simp [operationRows]) rfl rfl (by decide)

theorem add (l r : Operand) (c : Byte) : Statement (.add l r c) :=
  of_operation 2 (.ofClass 2 "ADD") (by simp [operationRows]) rfl rfl (by decide)

theorem sub (l r : Operand) (c : Byte) : Statement (.sub l r c) :=
  of_operation 3 (.ofClass 3 "SUB") (by simp [operationRows]) rfl rfl (by decide)

theorem not (l r : Operand) (c : Byte) : Statement (.not l r c) :=
  of_operation 4 (.ofClass 4 "NOT") (by simp [operationRows]) rfl rfl (by decide)

theorem xor (l r : Operand) (c : Byte) : Statement (.xor l r c) :=
  of_operation 5 (.ofClass 5 "XOR") (by simp [operationRows]) rfl rfl (by decide)

theorem shl (l r : Operand) (c : Byte) : Statement (.shl l r c) :=
  of_operation 8 (.ofClass 8 "SHL") (by simp [operationRows]) rfl rfl (by decide)

theorem shr (l r : Operand) (c : Byte) : Statement (.shr l r c) :=
  of_operation 9 (.ofClass 9 "SHR") (by simp [operationRows]) rfl rfl (by decide)

theorem mod (l r : Operand) (c : Byte) : Statement (.mod l r c) :=
  of_operation 12 (.ofClass 12 "MOD") (by simp [operationRows]) rfl rfl (by decide)

theorem div (l r : Operand) (c : Byte) : Statement (.div l r c) :=
  of_operation 13 (.ofClass 13 "DIV") (by simp [operationRows]) rfl rfl (by decide)

theorem store (l r : Operand) (c : Byte) : Statement (.store l r c) :=
  of_operation 16 (.ofClass 16 "STORE") (by simp [operationRows]) rfl rfl (by decide)

theorem load (l r : Operand) (c : Byte) : Statement (.load l r c) :=
  of_operation 24 (.ofClass 24 "LOAD") (by simp [operationRows]) rfl rfl (by decide)

theorem loadp (l r : Operand) (c : Byte) : Statement (.loadp l r c) :=
  of_operation 25 (.ofClass 25 "LOADP") (by simp [operationRows]) rfl rfl (by decide)

theorem beq (l r : Operand) (c : Byte) : Statement (.beq l r c) :=
  of_operation 32 (.ofClass 32 "BEQ") (by simp [operationRows]) rfl rfl (by decide)

theorem bne (l r : Operand) (c : Byte) : Statement (.bne l r c) :=
  of_operation 33 (.ofClass 33 "BNE") (by simp [operationRows]) rfl rfl (by decide)

theorem blt (l r : Operand) (c : Byte) : Statement (.blt l r c) :=
  of_operation 34 (.ofClass 34 "BLT") (by simp [operationRows]) rfl rfl (by decide)

theorem ble (l r : Operand) (c : Byte) : Statement (.ble l r c) :=
  of_operation 35 (.ofClass 35 "BLE") (by simp [operationRows]) rfl rfl (by decide)

theorem bgt (l r : Operand) (c : Byte) : Statement (.bgt l r c) :=
  of_operation 36 (.ofClass 36 "BGT") (by simp [operationRows]) rfl rfl (by decide)

theorem bge (l r : Operand) (c : Byte) : Statement (.bge l r c) :=
  of_operation 37 (.ofClass 37 "BGE") (by simp [operationRows]) rfl rfl (by decide)

theorem call (l r : Operand) (c : Byte) : Statement (.call l r c) :=
  of_operation 38 (.ofClass 38 "CALL") (by simp [operationRows]) rfl rfl (by decide)

theorem ret (l r : Operand) (c : Byte) : Statement (.ret l r c) :=
  of_operation 39 (.ofClass 39 "RET") (by simp [operationRows]) rfl rfl (by decide)

theorem nop6 (l r : Operand) (c : Byte) : Statement (.nop6 l r c) :=
  of_nop 6 (.ofClass 6 "NOP6") (by simp [nopRows]) rfl rfl (by decide)

theorem nop7 (l r : Operand) (c : Byte) : Statement (.nop7 l r c) :=
  of_nop 7 (.ofClass 7 "NOP7") (by simp [nopRows]) rfl rfl (by decide)

theorem nop10 (l r : Operand) (c : Byte) : Statement (.nop10 l r c) :=
  of_nop 10 (.ofClass 10 "NOP10") (by simp [nopRows]) rfl rfl (by decide)

theorem nop11 (l r : Operand) (c : Byte) : Statement (.nop11 l r c) :=
  of_nop 11 (.ofClass 11 "NOP11") (by simp [nopRows]) rfl rfl (by decide)

theorem nop14 (l r : Operand) (c : Byte) : Statement (.nop14 l r c) :=
  of_nop 14 (.ofClass 14 "NOP14") (by simp [nopRows]) rfl rfl (by decide)

theorem nop15 (l r : Operand) (c : Byte) : Statement (.nop15 l r c) :=
  of_nop 15 (.ofClass 15 "NOP15") (by simp [nopRows]) rfl rfl (by decide)

theorem nop17 (l r : Operand) (c : Byte) : Statement (.nop17 l r c) :=
  of_nop 17 (.ofClass 17 "NOP17") (by simp [nopRows]) rfl rfl (by decide)

theorem nop18 (l r : Operand) (c : Byte) : Statement (.nop18 l r c) :=
  of_nop 18 (.ofClass 18 "NOP18") (by simp [nopRows]) rfl rfl (by decide)

theorem nop19 (l r : Operand) (c : Byte) : Statement (.nop19 l r c) :=
  of_nop 19 (.ofClass 19 "NOP19") (by simp [nopRows]) rfl rfl (by decide)

theorem nop20 (l r : Operand) (c : Byte) : Statement (.nop20 l r c) :=
  of_nop 20 (.ofClass 20 "NOP20") (by simp [nopRows]) rfl rfl (by decide)

theorem nop21 (l r : Operand) (c : Byte) : Statement (.nop21 l r c) :=
  of_nop 21 (.ofClass 21 "NOP21") (by simp [nopRows]) rfl rfl (by decide)

theorem nop22 (l r : Operand) (c : Byte) : Statement (.nop22 l r c) :=
  of_nop 22 (.ofClass 22 "NOP22") (by simp [nopRows]) rfl rfl (by decide)

theorem nop23 (l r : Operand) (c : Byte) : Statement (.nop23 l r c) :=
  of_nop 23 (.ofClass 23 "NOP23") (by simp [nopRows]) rfl rfl (by decide)

theorem nop26 (l r : Operand) (c : Byte) : Statement (.nop26 l r c) :=
  of_nop 26 (.ofClass 26 "NOP26") (by simp [nopRows]) rfl rfl (by decide)

theorem nop27 (l r : Operand) (c : Byte) : Statement (.nop27 l r c) :=
  of_nop 27 (.ofClass 27 "NOP27") (by simp [nopRows]) rfl rfl (by decide)

theorem nop28 (l r : Operand) (c : Byte) : Statement (.nop28 l r c) :=
  of_nop 28 (.ofClass 28 "NOP28") (by simp [nopRows]) rfl rfl (by decide)

theorem nop29 (l r : Operand) (c : Byte) : Statement (.nop29 l r c) :=
  of_nop 29 (.ofClass 29 "NOP29") (by simp [nopRows]) rfl rfl (by decide)

theorem nop30 (l r : Operand) (c : Byte) : Statement (.nop30 l r c) :=
  of_nop 30 (.ofClass 30 "NOP30") (by simp [nopRows]) rfl rfl (by decide)

theorem nop31 (l r : Operand) (c : Byte) : Statement (.nop31 l r c) :=
  of_nop 31 (.ofClass 31 "NOP31") (by simp [nopRows]) rfl rfl (by decide)

theorem nop40 (l r : Operand) (c : Byte) : Statement (.nop40 l r c) :=
  of_nop 40 (.ofClass 40 "NOP40") (by simp [nopRows]) rfl rfl (by decide)

theorem nop41 (l r : Operand) (c : Byte) : Statement (.nop41 l r c) :=
  of_nop 41 (.ofClass 41 "NOP41") (by simp [nopRows]) rfl rfl (by decide)

theorem nop42 (l r : Operand) (c : Byte) : Statement (.nop42 l r c) :=
  of_nop 42 (.ofClass 42 "NOP42") (by simp [nopRows]) rfl rfl (by decide)

theorem nop43 (l r : Operand) (c : Byte) : Statement (.nop43 l r c) :=
  of_nop 43 (.ofClass 43 "NOP43") (by simp [nopRows]) rfl rfl (by decide)

theorem nop44 (l r : Operand) (c : Byte) : Statement (.nop44 l r c) :=
  of_nop 44 (.ofClass 44 "NOP44") (by simp [nopRows]) rfl rfl (by decide)

theorem nop45 (l r : Operand) (c : Byte) : Statement (.nop45 l r c) :=
  of_nop 45 (.ofClass 45 "NOP45") (by simp [nopRows]) rfl rfl (by decide)

theorem nop46 (l r : Operand) (c : Byte) : Statement (.nop46 l r c) :=
  of_nop 46 (.ofClass 46 "NOP46") (by simp [nopRows]) rfl rfl (by decide)

theorem nop47 (l r : Operand) (c : Byte) : Statement (.nop47 l r c) :=
  of_nop 47 (.ofClass 47 "NOP47") (by simp [nopRows]) rfl rfl (by decide)

theorem nop48 (l r : Operand) (c : Byte) : Statement (.nop48 l r c) :=
  of_nop 48 (.ofClass 48 "NOP48") (by simp [nopRows]) rfl rfl (by decide)

theorem nop49 (l r : Operand) (c : Byte) : Statement (.nop49 l r c) :=
  of_nop 49 (.ofClass 49 "NOP49") (by simp [nopRows]) rfl rfl (by decide)

theorem nop50 (l r : Operand) (c : Byte) : Statement (.nop50 l r c) :=
  of_nop 50 (.ofClass 50 "NOP50") (by simp [nopRows]) rfl rfl (by decide)

theorem nop51 (l r : Operand) (c : Byte) : Statement (.nop51 l r c) :=
  of_nop 51 (.ofClass 51 "NOP51") (by simp [nopRows]) rfl rfl (by decide)

theorem nop52 (l r : Operand) (c : Byte) : Statement (.nop52 l r c) :=
  of_nop 52 (.ofClass 52 "NOP52") (by simp [nopRows]) rfl rfl (by decide)

theorem nop53 (l r : Operand) (c : Byte) : Statement (.nop53 l r c) :=
  of_nop 53 (.ofClass 53 "NOP53") (by simp [nopRows]) rfl rfl (by decide)

theorem nop54 (l r : Operand) (c : Byte) : Statement (.nop54 l r c) :=
  of_nop 54 (.ofClass 54 "NOP54") (by simp [nopRows]) rfl rfl (by decide)

theorem nop55 (l r : Operand) (c : Byte) : Statement (.nop55 l r c) :=
  of_nop 55 (.ofClass 55 "NOP55") (by simp [nopRows]) rfl rfl (by decide)

theorem nop56 (l r : Operand) (c : Byte) : Statement (.nop56 l r c) :=
  of_nop 56 (.ofClass 56 "NOP56") (by simp [nopRows]) rfl rfl (by decide)

theorem nop57 (l r : Operand) (c : Byte) : Statement (.nop57 l r c) :=
  of_nop 57 (.ofClass 57 "NOP57") (by simp [nopRows]) rfl rfl (by decide)

theorem nop58 (l r : Operand) (c : Byte) : Statement (.nop58 l r c) :=
  of_nop 58 (.ofClass 58 "NOP58") (by simp [nopRows]) rfl rfl (by decide)

theorem nop59 (l r : Operand) (c : Byte) : Statement (.nop59 l r c) :=
  of_nop 59 (.ofClass 59 "NOP59") (by simp [nopRows]) rfl rfl (by decide)

theorem nop60 (l r : Operand) (c : Byte) : Statement (.nop60 l r c) :=
  of_nop 60 (.ofClass 60 "NOP60") (by simp [nopRows]) rfl rfl (by decide)

theorem nop61 (l r : Operand) (c : Byte) : Statement (.nop61 l r c) :=
  of_nop 61 (.ofClass 61 "NOP61") (by simp [nopRows]) rfl rfl (by decide)

theorem nop62 (l r : Operand) (c : Byte) : Statement (.nop62 l r c) :=
  of_nop 62 (.ofClass 62 "NOP62") (by simp [nopRows]) rfl rfl (by decide)

theorem nop63rr (a b c : Byte) : Statement (.nop63rr a b c) :=
  of_class63 false false ⟨"NOP63", 0xFF, 0x3F⟩ (by simp [class63Rows]) rfl rfl (by decide)

theorem nop63ri (a b c : Byte) : Statement (.nop63ri a b c) :=
  of_class63 false true ⟨"NOP63", 0xFF, 0x7F⟩ (by simp [class63Rows]) rfl rfl (by decide)

theorem nop63ir (a b c : Byte) : Statement (.nop63ir a b c) :=
  of_class63 true false ⟨"NOP63", 0xFF, 0xBF⟩ (by simp [class63Rows]) rfl rfl (by decide)

theorem halt (a b c : Byte) : Statement (.halt a b c) :=
  of_class63 true true ⟨"HALT", 0xFF, 0xFF⟩ (by simp [class63Rows]) rfl rfl (by decide)

end Sys2Proof.Laws.EncodesInTableRow
end

