-- ==== Sys2Proof/Tests/Slice0.lean ====
section
/-! SUPPORT. The model's own tests. Every expected value is the spec's: the source's worked examples S1 to S10 and the
vectors of 95_test_vectors.md section 2, each cited by its section. Then, for every statement with hypotheses, a witness
that meets them. -/

namespace Sys2Proof.Tests

open Sys2Proof.Machine

/-! ## Helpers: one step on a small state -/

/-- The reset state with the PC at `p` and the input `items`. -/
def start (p : Byte) (items : List InputItem := []) : State := { State.reset.setPc p with input := items }

/-- The word of R83. -/
def word (op a b c : Nat) : Nat := ((op * 256 + a) * 256 + b) * 256 + c

/-- A field of the state after one step of the instruction `op a b c` placed at the PC. -/
def after {α : Type} (s : State) (op a b c : Nat) (f : State → α) : Option α :=
  match step (s.withFetchWord 32 (word op a b c)) with
  | .next t => some (f t)
  | _ => none

/-- A register and the PC. -/
def regPc (j : Fin 8) (t : State) : Byte × Byte := (t.reg j, t.pc)

/-- The fault's code and the record's `pc`, with the run state. -/
def record (t : State) : RunState × Option (Nat × Byte) := (t.run, t.fault.map fun r => (r.kind.code, r.pc))

/-! ## What the checks refuse -/

/-- Smoke: R271, a program of 65 instructions does not fit. -/
theorem test_wf_program_too_long : Program.wf (List.replicate 65 (.halt 0 0 0)) = false := by decide

/-- R271: 64 instructions fit. -/
theorem test_wf_program_fits : Program.wf (List.replicate 64 (.halt 0 0 0)) = true := by decide

/-- Smoke: R271, an image of 257 bytes does not fit. -/
theorem test_wf_image_too_long : Image.wf (List.replicate 257 0) = false := by decide +kernel

/-- R271: 256 bytes fit. -/
theorem test_wf_image_fits : Image.wf (List.replicate 256 0) = true := by decide +kernel

/-- Smoke: R60, no cell beyond address 255. -/
theorem test_wf_memory_beyond_end : Memory.wf [(256, 1)] = false := by decide

/-- Smoke: the canonical form lists no empty byte. -/
theorem test_wf_memory_empty_listed : Memory.wf [(3, 0)] = false := by decide

/-- Smoke: the canonical form rises strictly. -/
theorem test_wf_memory_not_rising : Memory.wf [(3, 1), (3, 2)] = false := by decide

/-- Three bytes are no instruction. -/
theorem test_decode_short : decodeBytes [0, 0, 0] = .error (.truncated 3) := by decide

/-! ## Decoding: words written out from the encoding -/

/-- S3: `64 7 0 1` is `OR r7, #0 -> r1`. -/
theorem test_decode_or : decodeTableWord 32 0b01000000000001110000000000000001 = some (.or (.reg 7) (.imm 0) 1) := by
  decide

/-- S4: `16 0 0 0` is `STORE r0, r0`. -/
theorem test_decode_store : decodeTableWord 32 0b00010000000000000000000000000000 = some (.store (.reg 0) (.reg 0) 0) := by
  decide

/-- S5: `96 0 0 0` is `BEQ r0, #0 -> 0`. -/
theorem test_decode_beq : decodeTableWord 32 0b01100000000000000000000000000000 = some (.beq (.reg 0) (.imm 0) 0) := by
  decide

/-- S8: `230 0 0 64` is `CALL 64`. -/
theorem test_decode_call : decodeTableWord 32 0b11100110000000000000000001000000 = some (.call (.imm 0) (.imm 0) 64) := by
  decide

/-- S8: `39 0 0 0` is `RET`. -/
theorem test_decode_ret : decodeTableWord 32 0b00100111000000000000000000000000 = some (.ret (.reg 0) (.reg 0) 0) := by
  decide

/-- 2.1: `165 3 4 20` is `BGE #3, r4 -> 20`. -/
theorem test_decode_bge : decodeTableWord 32 0b10100101000000110000010000010100 = some (.bge (.imm 3) (.reg 4) 20) := by
  decide

/-- 2.1: `205 10 0 1` is `DIV #10, #0 -> r1`. -/
theorem test_decode_div : decodeTableWord 32 0b11001101000010100000000000000001 = some (.div (.imm 10) (.imm 0) 1) := by
  decide

/-- 2.1: `6 0 0 6` is a no-op of opclass 6. -/
theorem test_decode_nop6 : decodeTableWord 32 0b00000110000000000000000000000110 = some (.nop6 (.reg 0) (.reg 0) 6) := by
  decide

/-- 2.1: 63, 127 and 191 are no-ops of opclass 63, and 255 is HALT (R86). -/
theorem test_decode_class63 :
    decode 63 1 2 3 = .nop63rr 1 2 3 ∧ decode 127 1 2 3 = .nop63ri 1 2 3 ∧ decode 191 1 2 3 = .nop63ir 1 2 3 ∧
      decode 255 1 2 3 = .halt 1 2 3 := by decide

/-- The remaining opclasses of R84, in order: the opcode byte alone picks the instruction. -/
theorem test_decode_every_opclass :
    (List.range 64).map (fun k => (decode (BitVec.ofNat 8 k) 0 0 0).mnemonic) =
      ["OR", "AND", "ADD", "SUB", "NOT", "XOR", "NOP6", "NOP7", "SHL", "SHR", "NOP10", "NOP11", "MOD", "DIV", "NOP14",
       "NOP15"] ++
      ["STORE", "NOP17", "NOP18", "NOP19", "NOP20", "NOP21", "NOP22", "NOP23", "LOAD", "LOADP", "NOP26", "NOP27",
       "NOP28", "NOP29", "NOP30", "NOP31"] ++
      ["BEQ", "BNE", "BLT", "BLE", "BGT", "BGE", "CALL", "RET", "NOP40", "NOP41", "NOP42", "NOP43", "NOP44", "NOP45",
       "NOP46", "NOP47"] ++
      ["NOP48", "NOP49", "NOP50", "NOP51", "NOP52", "NOP53", "NOP54", "NOP55", "NOP56", "NOP57", "NOP58", "NOP59",
       "NOP60", "NOP61", "NOP62", "NOP63"] := by decide

/-- S3: the decoder's record. -/
theorem test_signals_s3 : controlSignals 64 7 0 1 = ⟨some .or, false, false, false, false, false, none, .reg 7, .imm 0,
    some 1, false⟩ := by decide

/-- S4: the decoder's record. -/
theorem test_signals_s4 : controlSignals 16 0 0 0 = ⟨none, false, false, true, false, false, none, .reg 0, .reg 0,
    none, false⟩ := by decide

/-- S5: the decoder's record. -/
theorem test_signals_s5 : controlSignals 96 0 0 0 = ⟨none, false, false, false, false, false, some .equal, .reg 0,
    .imm 0, some 0, true⟩ := by decide

/-- 2.1: who redirects: an ALU, LOAD or LOADP result to the PC, CALL; not STORE, RET or a no-op. -/
theorem test_signals_redirect :
    [(0, 6), (16, 6), (24, 6), (25, 6), (25, 5), (38, 64), (39, 6), (6, 6)].map
      (fun v : Byte × Byte => (controlSignals v.1 0 0 v.2).controlFlowRedirected) =
      [true, false, true, true, false, true, false, false] := by decide

/-- How many of the 256 opcode bytes a list of rows matches. -/
def opcodesOf (rows : List TableRow) : Nat :=
  (List.range 256).countP fun n => rows.any fun row => row.Matches (BitVec.ofNat 8 n)

/-- 2.1: 84 opcode bytes select an operation, one halts and the other 171 are no-ops. -/
theorem test_opcode_counts :
    opcodesOf operationRows = 84 ∧ opcodesOf (nopRows ++ class63Rows.take 3) = 171 ∧ opcodesOf (class63Rows.drop 3) = 1 := by
  decide +kernel

/-! ## The ALU instructions -/

/-- 2.2: `OR r1, #15 -> r2` with r1 = 240. -/
theorem test_or : after ((start 0).setReg 1 240) 64 1 15 2 (regPc 2) = some (255, 4) := by decide

/-- 2.2: `OR #20, #0 -> r6` jumps and does not advance. -/
theorem test_or_pc : after (start 0) 192 20 0 6 (regPc 6) = some (20, 20) := by decide

/-- 2.2: `AND #240, r1 -> r2` with r1 = 60. -/
theorem test_and : after ((start 0).setReg 1 60) 129 240 1 2 (regPc 2) = some (48, 4) := by decide

/-- S6: `ADD #200, #100 -> r0` wraps to 44. -/
theorem test_add_wraps : after (start 0) 194 200 100 0 (regPc 0) = some (44, 4) := by decide

/-- 2.2: `ADD r6, #4 -> r6` at 8 reads 8 and writes 12. -/
theorem test_add_pc : after (start 8) 66 6 4 6 (regPc 6) = some (12, 12) := by decide

/-- 2.2: `SUB r1, r1 -> r1`, source and destination the same. -/
theorem test_sub_same : after ((start 0).setReg 1 77) 3 1 1 1 (regPc 1) = some (0, 4) := by decide

/-- S6: `SUB #5, #10` faults. -/
theorem test_sub_underflow : after (start 0) 195 5 10 0 record = some (.faulted, some (1, 0)) := by decide

/-- 2.2: `NOT #0, #99 -> r1` ignores its right operand. -/
theorem test_not : after (start 0) 196 0 99 1 (regPc 1) = some (255, 4) := by decide

/-- 2.2: `NOT r3, r200` still resolves its right operand. -/
theorem test_not_resolves_right : after (start 0) 4 3 200 1 record = some (.faulted, some (11, 0)) := by decide

/-- 2.2: `XOR #240, #255 -> r0`. -/
theorem test_xor : after (start 0) 197 240 255 0 (regPc 0) = some (15, 4) := by decide

/-- 2.2: `SHL #129, #1` loses the top bit. -/
theorem test_shl : after (start 0) 200 129 1 0 (regPc 0) = some (2, 4) := by decide

/-- 2.2: `SHL #1, #8` faults. -/
theorem test_shl_width : after (start 0) 200 1 8 0 record = some (.faulted, some (2, 0)) := by decide

/-- 2.2: `SHR #129, #1` brings in a zero. -/
theorem test_shr : after (start 0) 201 129 1 0 (regPc 0) = some (64, 4) := by decide

/-- 2.2: `SHR #255, #7`. -/
theorem test_shr_seven : after (start 0) 201 255 7 0 (regPc 0) = some (1, 4) := by decide

/-- 2.2: `MOD #17, #5`. -/
theorem test_mod : after (start 0) 204 17 5 0 (regPc 0) = some (2, 4) := by decide

/-- 2.2: `MOD #0, #0` faults. -/
theorem test_mod_zero : after (start 0) 204 0 0 0 record = some (.faulted, some (4, 0)) := by decide

/-- 2.2: `DIV #17, #5` is floored. -/
theorem test_div : after (start 0) 205 17 5 0 (regPc 0) = some (3, 4) := by decide

/-- 2.6: `DIV #1, #0 -> r9` is DivZero, not the destination's fault. -/
theorem test_div_zero_first : after (start 0) 205 1 0 9 record = some (.faulted, some (3, 0)) := by decide

/-! ## Memory -/

/-- 2.4: `STORE #42, #0` with a byte `c` that is no register: it stores and advances. -/
theorem test_store : after ((start 0).setReg 5 1) 208 42 0 9 (fun t => (t.data.read 1, t.pc)) = some (42, 4) := by decide

/-- 2.4: `STORE #42, r9` faults and stores nothing. -/
theorem test_store_right_faults : after ((start 0).setReg 5 1) 144 42 9 0 (fun t => (record t, t.data)) =
    some ((.faulted, some (11, 0)), []) := by decide

/-- 2.4: `LOAD #0, #0 -> r5` reads at the old ADDR. -/
theorem test_load : after (((start 0).setReg 5 3).storeData 3 77) 216 0 0 5 (regPc 5) = some (77, 4) := by decide

/-- 2.4: `LOAD r0, r7 -> r1` consumes its unused right operand. -/
theorem test_load_consumes : after (start 0 [.byte 5]) 24 0 7 1 (fun t => (t.reg 1, t.input)) = some (0, []) := by decide

/-- 2.4: `LOADP #0, #0 -> r1` reads its own opcode byte. -/
theorem test_loadp : after (start 0) 217 0 0 1 (regPc 1) = some (217, 4) := by decide

/-! ## Branches (2.3): each at 8 with the operands 4 5, 5 5 and 6 5 -/

/-- Where `op` with the target 40 goes, for the three pairs of 2.3. -/
def branchColumn (op : Nat) : List (Option Byte) := [4, 5, 6].map fun l => after (start 8) op l 5 40 State.pc

/-- 2.3: BEQ. -/
theorem test_beq : branchColumn 224 = [some 12, some 40, some 12] := by decide

/-- 2.3: BNE. -/
theorem test_bne : branchColumn 225 = [some 40, some 12, some 40] := by decide

/-- 2.3: BLT. -/
theorem test_blt : branchColumn 226 = [some 40, some 12, some 12] := by decide

/-- 2.3: `BLT #1, #255` compares unsigned. -/
theorem test_blt_unsigned : after (start 8) 226 1 255 40 State.pc = some 40 := by decide

/-- 2.3: BLE. -/
theorem test_ble : branchColumn 227 = [some 40, some 40, some 12] := by decide

/-- 2.3: BGT. -/
theorem test_bgt : branchColumn 228 = [some 12, some 12, some 40] := by decide

/-- 2.3: BGE. -/
theorem test_bge : branchColumn 229 = [some 12, some 40, some 40] := by decide

/-- 2.3: `BEQ #0, #0 -> 7` is an address, nothing is printed. -/
theorem test_beq_seven : after (start 0) 224 0 0 7 (fun t => (t.pc, t.out)) = some (7, []) := by decide

/-- 2.3: a branch not taken at 252 runs off the end. -/
theorem test_bne_off_end : after (start 252) 225 0 0 0 record = some (.faulted, some (10, 252)) := by decide

/-! ## Call and return (2.5) -/

/-- S8: CALL pushes its own address. -/
theorem test_call : after (start 32) 230 0 0 64 (fun t => (t.stack, t.sp, t.pc)) = some ([(0, 32)], 1, 64) := by decide

/-- 2.5: the 257th pending call overflows. -/
theorem test_call_overflow : after { start 32 with sp := 256 } 230 0 0 64 (fun t => (record t, t.sp)) =
    some ((.faulted, some (5, 32)), 256) := by decide

/-- 2.5: RET at 64 comes back to 36, reads no input and leaves the entry. -/
theorem test_ret : after { start 64 [.byte 1] with stack := [(0, 32)], sp := 1 } 39 7 7 0
    (fun t => (t.sp, t.pc, t.stack, t.input)) = some (0, 36, [(0, 32)], [.byte 1]) := by decide

/-- 2.5: RET to 252 pops and then runs off the end. -/
theorem test_ret_off_end : after { start 64 with stack := [(0, 252)], sp := 1 } 39 0 0 0
    (fun t => (record t, t.sp, t.pc)) = some ((.faulted, some (10, 252)), 0, 252) := by decide

/-! ## No-ops, HALT and the cycle (2.6) -/

/-- 2.6: `NOP6 r7, r0` consumes an item. -/
theorem test_nop6 : after (start 0 [.byte 3]) 6 7 0 0 (fun t => (t.pc, t.input)) = some (4, []) := by decide

/-- R131: every unassigned opclass with immediate operands advances and does nothing else. -/
theorem test_nops_advance :
    [6, 7, 10, 11, 14, 15, 17, 18, 19, 20, 21, 22, 23, 26, 27, 28, 29, 30, 31, 40, 41].all
      (fun k => after (start 0) (192 + k) 8 9 7 (fun t => ({ t with prom := [] } : State)) == some (start 4)) = true := by
  decide

/-- R131: the other unassigned opclasses. -/
theorem test_more_nops_advance :
    [42, 43, 44, 45, 46, 47, 48, 49, 50, 51, 52, 53, 54, 55, 56, 57, 58, 59, 60, 61, 62].all
      (fun k => after (start 0) (192 + k) 8 9 7 (fun t => ({ t with prom := [] } : State)) == some (start 4)) = true := by
  decide

/-- 2.6: `63 7 7 7` is not HALT: it reads the console. -/
theorem test_nop63rr : after (start 0 [.eof]) 63 7 7 7 record = some (.faulted, some (8, 0)) := by decide

/-- R131, R92: `127 0 200 0` has an immediate right operand. -/
theorem test_nop63ri : after (start 0) 127 0 200 0 (regPc 0) = some (0, 4) := by decide

/-- R131, R92: `191 200 0 0` has an immediate left operand. -/
theorem test_nop63ir : after (start 0) 191 200 0 0 (regPc 0) = some (0, 4) := by decide

/-- 2.6: HALT reads no input and keeps the PC. -/
theorem test_halt : after (start 0 [.eof]) 255 7 7 7 (fun t => (t.run, t.pc, t.fault)) = some (.halted, 0, none) := by
  decide

/-- 2.6: `OR #1, #0 -> r7` at 252 prints and then runs off the end. -/
theorem test_print_off_end : after (start 252) 192 1 0 7 (fun t => (t.out, record t)) =
    some ([1], (.faulted, some (10, 252))) := by decide

/-- 2.6: `ADD r7, r7 -> r1` reads left before right: with SUB, 3 - 4 underflows and both items stay consumed. -/
theorem test_left_before_right : after (start 0 [.byte 3, .byte 4]) 3 7 7 1 (fun t => (record t, t.input)) =
    some ((.faulted, some (1, 0)), []) := by decide

/-- 2.6, D3: `OR r7, r2 -> r1` tests each operand's own index. -/
theorem test_own_index : after ((start 0 [.byte 48, .byte 3]).setReg 2 12) 0 7 2 1 (fun t => (t.reg 1, t.input)) =
    some (60, [.byte 3]) := by decide

/-- 2.6: a bad line. -/
theorem test_bad_line : after (start 0 [.bad]) 0 7 0 1 (fun t => (record t, t.input)) =
    some ((.faulted, some (7, 0)), []) := by decide

/-- R121: a fetch at 2 is misaligned. -/
theorem test_misaligned : after (start 2) 0 0 0 0 (fun t => (record t, t.pc)) = some ((.faulted, some (9, 2)), 2) := by
  decide

/-- S10: the image of the source's text, loaded at reset. -/
theorem test_boot_image : (List.range 13).map (State.boot [64, 7, 0, 0, 64, 0, 0, 7, 32, 0, 0, 0] []).prom.read =
    [64, 7, 0, 0, 64, 0, 0, 7, 32, 0, 0, 0, 0] := by decide

/-! ## Witnesses: concrete states and operands that meet the hypotheses of the statements -/

/-- The last address an advance is possible from, with r1 = 5 and three items of input. -/
def last : State := (start 251 [.byte 9, .byte 8, .eof]).setReg 1 5

/-- The first address an advance runs off the end from. -/
def past : State := last.setPc 252

/-- Operands that resolve, in each form: an immediate, a register, and the console. -/
theorem witness_operands_resolve :
    resolve (.imm 7) last = .ok 7 last ∧ resolve (.reg 1) last = .ok 5 last ∧ resolve (.reg 6) last = .ok 251 last ∧
    resolve (.reg 7) last = .ok 9 { last with input := [.byte 8, .eof] } ∧
    resolve (.reg 7) { last with input := [.byte 8, .eof] } = .ok 8 { last with input := [.eof] } := by decide

/-- ImmediateIsTheByteItself: an opcode byte with each flag. -/
theorem witness_ImmediateIsTheByteItself : (128#8).getLsbD 7 = true ∧ (64#8).getLsbD 6 = true := by decide

/-- EveryOpcodeByteHasOneRow: two rows that match. -/
theorem witness_EveryOpcodeByteHasOneRow :
    (∃ row ∈ opcodeTable, row.Matches 0x3F = true) ∧ ∃ row ∈ opcodeTable, row.Matches 0xC0 = true := by decide

/-- ReadRegEveryCase: each clause at its bounds. -/
theorem witness_ReadRegEveryCase :
    (0#8).toNat = (0 : Fin 8).val ∧ (6#8).toNat = (6 : Fin 8).val ∧ (6 : Fin 8).val ≤ 6 ∧
    last.input = .byte 9 :: [.byte 8, .eof] ∧ (start 0 [.bad]).input = .bad :: [] ∧
    (start 0 [.eof]).input = .eof :: [] ∧ (start 0).input = [] ∧ 8 ≤ (8#8).toNat ∧ 8 ≤ (255#8).toNat := by decide

/-- WriteRegEveryCase: each clause at its bounds. -/
theorem witness_WriteRegEveryCase :
    ((0#8).toNat = (0 : Fin 8).val ∧ (6#8).toNat = (6 : Fin 8).val ∧ (6 : Fin 8).val ≤ 6) ∧ 8 ≤ (8#8).toNat := by decide

/-- ResolvedOperandsActAsImmediates: the opclasses at the ends of the range and beside 39, with console operands. -/
theorem witness_ResolvedOperandsActAsImmediates :
    (∀ k ∈ [0, 38, 40, 62], k < 63 ∧ k ≠ 39) ∧
    resolve (.reg 7) last = .ok 9 { last with input := [.byte 8, .eof] } ∧
    resolve (.reg 7) { last with input := [.byte 8, .eof] } = .ok 8 { last with input := [.eof] } := by decide

/-- OperandFaultsComeFirst: a fault and a wait of each operand. -/
theorem witness_OperandFaultsComeFirst :
    (Instr.add (.reg 8) (.reg 7) 0).fields.opclass ≠ 39#6 ∧
    resolve (Instr.add (.reg 8) (.reg 7) 0).fields.left (start 0) = .raise .registerIndex (start 0) ∧
    resolve (Instr.add (.imm 1) (.reg 7) 0).fields.left (start 0 [.bad]) = .ok 1 (start 0 [.bad]) ∧
    resolve (Instr.add (.imm 1) (.reg 7) 0).fields.right (start 0 [.bad]) = .raise (.input .malformed) (start 0) ∧
    resolve (Instr.store (.reg 7) (.imm 1) 0).fields.left (start 0) = .wait ∧
    resolve (Instr.nop6 (.imm 1) (.reg 7) 0).fields.right (start 0) = .wait := by decide

/-- AluValuesAndFaults: each clause at its bounds. -/
theorem witness_AluValuesAndFaults :
    (4#8).toNat < (5#8).toNat ∧ (5#8).toNat ≤ (5#8).toNat ∧ 8 ≤ (8#8).toNat ∧ (7#8).toNat < 8 ∧ (0#8).toNat = 0 ∧
      (1#8).toNat ≠ 0 := by decide

/-- The destinations and addresses of every clause of `DeliversResult`: r5 and r0, r6, r7, 8 and 255, at 251 and 252. -/
theorem witness_DeliversResult :
    ((5 : Fin 8).val ≤ 5 ∧ (5#8).toNat = (5 : Fin 8).val ∧ (0#8).toNat = (0 : Fin 8).val) ∧
    8 ≤ (8#8).toNat ∧ 8 ≤ (255#8).toNat ∧ last.pc.toNat ≤ 251 ∧ 252 ≤ past.pc.toNat ∧
    resolve (.reg 1) past = .ok 5 past ∧ resolve (.imm 7) past = .ok 7 past := by decide

/-- LogicInstructionsDeliver: AND of a console byte and a register to r5 completes at 251. -/
theorem witness_LogicInstructionsDeliver : exec (.and (.reg 7) (.reg 1) 5) last =
    .next (({ last with input := [.byte 8, .eof] }.setReg 5 1).setPc 255) := by rfl

/-- AddAndSubDeliver: the operands that run and the operands that fault, where the two meet. -/
theorem witness_AddAndSubDeliver :
    resolve (.reg 1) last = .ok 5 last ∧ resolve (.imm 5) last = .ok 5 last ∧ (5#8).toNat ≤ (5#8).toNat ∧
      resolve (.imm 6) last = .ok 6 last ∧ (5#8).toNat < (6#8).toNat := by decide

/-- ShiftsDeliver: the amounts 7 and 8. -/
theorem witness_ShiftsDeliver :
    resolve (.imm 7) last = .ok 7 last ∧ (7#8).toNat < 8 ∧ resolve (.imm 8) last = .ok 8 last ∧ 8 ≤ (8#8).toNat := by decide

/-- ModAndDivDeliver: the divisors 1 and 0. -/
theorem witness_ModAndDivDeliver :
    resolve (.imm 1) last = .ok 1 last ∧ (1#8).toNat ≠ 0 ∧ resolve (.reg 0) last = .ok 0 last ∧ (0#8).toNat = 0 := by decide

/-- LoadsDeliver: operands that resolve, with ADDR at the last byte. -/
theorem witness_LoadsDeliver :
    resolve (.imm 0) (last.setReg 5 255) = .ok 0 (last.setReg 5 255) ∧ ((last.setReg 5 255).reg 5).toNat = 255 := by decide

/-- StoreWritesLeftAtAddr: a canonical DATA with a cell listed, at both ends of the advance. -/
theorem witness_StoreWritesLeftAtAddr :
    (last.storeData 255 3).data.wf = true ∧ (last.storeData 255 3).data.read 255 = 3 ∧
      resolve (.imm 7) (last.storeData 255 3) = .ok 7 (last.storeData 255 3) ∧
      (last.storeData 255 3).pc.toNat ≤ 251 ∧ 252 ≤ (past.storeData 255 3).pc.toNat := by decide

/-- BranchesGoToTargetWhenRelationHolds: for each relation, operands on which it holds and on which it does not. -/
theorem witness_BranchesGoToTargetWhenRelationHolds :
    resolve (.reg 1) last = .ok 5 last ∧
    (∀ v : Byte, v ∈ [4#8, 5#8, 6#8] → resolve (.imm v) last = .ok v last ∧ resolve (.imm v) past = .ok v past) ∧
    ((5#8).toNat = (5#8).toNat ∧ ¬ (5#8).toNat = (6#8).toNat) ∧ ((5#8).toNat < (6#8).toNat ∧ ¬ (5#8).toNat < (5#8).toNat) ∧
    ((5#8).toNat ≤ (5#8).toNat ∧ ¬ (5#8).toNat ≤ (4#8).toNat) ∧ last.pc.toNat ≤ 251 ∧ 252 ≤ past.pc.toNat := by decide

/-- CallPushesOwnAddress: a canonical stack, the cursor at 255 and at 256. -/
theorem witness_CallPushesOwnAddress :
    ({ last with stack := [(0, 32)], sp := 255 } : State).stack.wf = true ∧
      ({ last with stack := [(0, 32)], sp := 255 } : State).sp < 256 ∧ 256 ≤ ({ last with sp := 256 } : State).sp ∧
      resolve (.imm 0) { last with sp := 255 } = .ok 0 { last with sp := 255 } := by decide

/-- RetGoesPastTheCall: return addresses 251 and 252, and no call pending. -/
theorem witness_RetGoesPastTheCall :
    0 < ({ last with stack := [(0, 251)], sp := 1 } : State).sp ∧
      (({ last with stack := [(0, 251)], sp := 1 } : State).stack.read (1 - 1)).toNat ≤ 251 ∧
      252 ≤ (({ last with stack := [(0, 252)], sp := 1 } : State).stack.read (1 - 1)).toNat ∧ last.sp = 0 := by decide

/-- CallThenReturnResumesAfterTheCall: a call at 248 with 255 pending, and the callee's state the state after it. -/
theorem witness_CallThenReturnResumesAfterTheCall :
    ({ start 248 with sp := 255 } : State).stack.wf = true ∧ ({ start 248 with sp := 255 } : State).sp < 256 ∧
      ({ start 248 with sp := 255 } : State).pc.toNat ≤ 251 ∧
      resolve (.imm 0) { start 248 with sp := 255 } = .ok 0 { start 248 with sp := 255 } := by decide

/-- NoOpsOnlyAdvance: a no-op form, with operands that resolve, at both ends of the advance. -/
theorem witness_NoOpsOnlyAdvance :
    Instr.nop6 ∈ Claims.nopForms ∧ Instr.nop62 ∈ Claims.nopForms ∧ resolve (.reg 1) last = .ok 5 last ∧
      resolve (.reg 1) past = .ok 5 past ∧ last.pc.toNat ≤ 251 ∧ 252 ≤ past.pc.toNat := by
  simp only [Claims.nopForms, List.mem_cons, true_or, or_true, true_and]
  decide

/-- RegisterFrame and ConsoleFrame: an instruction that completes with a destination, and registers that are not it. -/
theorem witness_RegisterFrame :
    (∃ t, exec (.add (.imm 1) (.imm 2) 3) last = .next t) ∧ (2 : Fin 8) ≠ 6 ∧
      (Instr.add (.imm 1) (.imm 2) 3).fields.c.toNat ≠ (2 : Fin 8).val := ⟨⟨_, rfl⟩, by decide, by decide⟩

/-- MemoryFrame: STORE and CALL complete on canonical memories. -/
theorem witness_MemoryFrame :
    last.data.wf = true ∧ last.stack.wf = true ∧ (∃ t, exec (.store (.imm 1) (.imm 2) 3) last = .next t) ∧
      ∃ t, exec (.call (.imm 1) (.imm 2) 3) last = .next t := ⟨by decide, by decide, ⟨_, rfl⟩, ⟨_, rfl⟩⟩

/-- ConsoleFrame: a print, and RET and HALT, complete. -/
theorem witness_ConsoleFrame :
    (∃ t, exec (.add (.reg 7) (.reg 7) 7) last = .next t) ∧ (∃ t, exec (.ret (.reg 7) (.reg 7) 7) last = .next t) ∧
      ∃ t, exec (.halt 7 7 7) last = .next t := ⟨⟨_, rfl⟩, ⟨_, rfl⟩, ⟨_, rfl⟩⟩

/-- StepRunsTheDecodedInstruction: Running at 252 with the zero word there, and at 253. -/
theorem witness_StepRunsTheDecodedInstruction :
    (start 252).run = .running ∧ (start 252).pc.toNat % 4 = 0 ∧
      decodeBytes [(start 252).prom.read 252, (start 252).prom.read 253, (start 252).prom.read 254,
        (start 252).prom.read 255] = .ok (.or (.reg 0) (.reg 0) 0, []) ∧ (start 253).pc.toNat % 4 ≠ 0 := by decide

/-- PlacedWordRuns: HALT placed at 252. -/
theorem witness_PlacedWordRuns :
    (start 252).run = .running ∧ (start 252).pc.toNat % 4 = 0 ∧ (start 252).prom.wf = true ∧
      decodeTableWord 32 (word 255 0 0 0) = some (.halt 0 0 0) := by decide

/-- PcUpdateFollowsTheRedirectFlag: a plain instruction, a branch, a CALL, results for r6 from DATA, from PROM and from the
ALU, and a RET each stay Running. -/
theorem witness_PcUpdateFollowsTheRedirectFlag :
    after (start 248) 194 1 2 0 State.run = some .running ∧ (decoderWires 194 1 2 0).cfRedirect = false ∧
    after (start 248) 224 1 2 0 State.run = some .running ∧ (decoderWires 224 1 2 0).brValid = true ∧
    after (start 252) 230 0 0 64 State.run = some .running ∧ (decoderWires 230 0 0 64).isCall = true ∧
    after (start 252) 216 0 0 6 State.run = some .running ∧ (decoderWires 216 0 0 6).rdData = true ∧
    after (start 252) 217 0 0 6 State.run = some .running ∧ (decoderWires 217 0 0 6).rdProg = true ∧
    after (start 252) 192 20 0 6 State.run = some .running ∧ (decoderWires 192 20 0 6).aluValid = true ∧
    after { start 64 with stack := [(0, 248)], sp := 1 } 39 0 0 0 State.run = some .running ∧
      (decoderWires 39 0 0 0).isRet = true := by decide

/-- PushWritesTheNextEntry: the cursor at 256 and at 255. -/
theorem witness_PushWritesTheNextEntry :
    ({ start 0 with sp := 256 } : State).sp = 256 ∧ ({ start 0 with sp := 255 } : State).stack.wf = true ∧
      ({ start 0 with sp := 255 } : State).sp < 256 := by decide

/-- PopReturnsTheLastEntry: the cursor at 0 and at 1. -/
theorem witness_PopReturnsTheLastEntry :
    (start 0).sp = 0 ∧ 0 < ({ start 0 with stack := [(0, 32)], sp := 1 } : State).sp := by decide

/-- FaultsArePrecise: a fault before the effects, and one that the written result precedes. -/
theorem witness_FaultsArePrecise :
    after (start 0) 205 7 0 0 record = some (.faulted, some (3, 0)) ∧
      after (start 252) 192 1 0 0 (fun t => (record t, t.reg 0)) = some ((.faulted, some (10, 252)), 1) := by decide

/-- HaltedAndFaultedAreTerminal: both states are reached. -/
theorem witness_HaltedAndFaultedAreTerminal :
    (haltRun (start 0)).run = .halted ∧ ((start 0).enterFaulted .registerIndex).run = .faulted := by decide

/-- OnlyHaltHalts: a cycle from Running ends Halted, and one does not. -/
theorem witness_OnlyHaltHalts :
    (start 252).run = .running ∧ after (start 252) 255 0 0 0 State.run = some .halted ∧
      after (start 0) 63 0 0 0 State.run = some .running := by decide

/-- StepStopsOnlyWhenEndedOrWaiting: the three stops. -/
theorem witness_StepStopsOnlyWhenEndedOrWaiting :
    step (haltRun (start 0)) = .fault .halted ∧ step ((start 0).enterFaulted .registerIndex) = .fault .faulted ∧
      step ((start 0).withFetchWord 32 (word 0 7 0 1)) = .fault .awaitingInput := ⟨rfl, rfl, rfl⟩

/-- EarlyInputChangesNothing: a cycle that reads the console and has a next state. -/
theorem witness_EarlyInputChangesNothing : ∃ t, step ((start 0 [.byte 3]).withFetchWord 32 (word 0 7 0 1)) = .next t :=
  ⟨_, rfl⟩

/-- ResetState: an image of 256 bytes. -/
theorem witness_ResetState : (List.replicate 256 (7 : Byte)).length = 256 := List.length_replicate

/-- StepKeepsInvariant: the reset state meets the invariant and takes a step. -/
theorem witness_StepKeepsInvariant : State.reset.Inv ∧ ∃ t, step State.reset = .next t :=
  ⟨⟨rfl, rfl, rfl, Nat.zero_le _, rfl, by decide, fun _ h => (by cases h), fun _ h => absurd h (Nat.not_lt_zero _)⟩, _, rfl⟩

/-- StaleStateIsUnobservable: two different states with one pending call that differ in the cell behind r7 and in a stale
entry; one takes a step, and waiting they both stop. -/
theorem witness_StaleStateIsUnobservable :
    let s : State := { start 0 with stack := [(0, 32)], sp := 1 }
    let t : State := { start 0 with stack := [(0, 32), (1, 99)], sp := 1 }.setReg 7 5
    s ≠ t ∧ s.stack.wf = true ∧ t.stack.wf = true ∧ s.SameVisible t ∧ (∃ s', step s = .next s') ∧
      step (haltRun s) = .fault .halted := by
  refine ⟨by decide, by decide, by decide, ⟨by decide, rfl, rfl, fun k hk => ?_, rfl, rfl, rfl, rfl, rfl⟩, ⟨_, rfl⟩, rfl⟩
  obtain rfl : k = 0 := by simpa using hk
  rfl

/-- DataIsReadOnlyByLoad: STORE and LOADP are not LOAD; STORE completes and writes the same byte whatever DATA holds. -/
theorem witness_DataIsReadOnlyByLoad :
    (Instr.store (.imm 1) (.imm 2) 3).fields.opclass ≠ 24#6 ∧ (Instr.loadp (.imm 1) (.imm 2) 3).fields.opclass ≠ 24#6 ∧
      ∀ d, exec (.store (.imm 1) (.imm 2) 3) { last with data := d } =
        .next { last.setPc 255 with data := d.write 0 1 } := ⟨by decide, by decide, fun _ => rfl⟩

end Sys2Proof.Tests
end

section
/-! PROOF. The decoder's operands, destination and redirect flag (30_encoding.md R81, R89, R90, R92). -/

namespace Sys2Proof.Proofs.Encoding

open Sys2Proof.Machine

/-! ## Operands -/

@[simp] theorem ofFlag_true (v : Byte) : Operand.ofFlag true v = .imm v := rfl

theorem ofFlag_decide (p : Prop) [Decidable p] (v : Byte) :
    Operand.ofFlag (decide p) v = if p then .imm v else .reg v := by
  simp [Operand.ofFlag]

@[simp] theorem leftOperand_controlSignals (op a b c : Byte) :
    (controlSignals op a b c).leftOperand = .ofFlag (immLeft op) a := rfl

@[simp] theorem rightOperand_controlSignals (op a b c : Byte) :
    (controlSignals op a b c).rightOperand = .ofFlag (immRight op) b := rfl

/-- IL by arithmetic chooses the left operand. -/
theorem ofFlag_immLeft (op v : Byte) :
    Operand.ofFlag (immLeft op) v = if op.toNat / 128 = 1 then .imm v else .reg v := by
  obtain ⟨-, hIL, -⟩ := opcode_fields_arith op
  rw [hIL, ofFlag_decide]

/-- IR by arithmetic chooses the right operand. -/
theorem ofFlag_immRight (op v : Byte) :
    Operand.ofFlag (immRight op) v = if op.toNat / 64 % 2 = 1 then .imm v else .reg v := by
  obtain ⟨-, -, hIR⟩ := opcode_fields_arith op
  rw [hIR, ofFlag_decide]

/-! ## Opclasses -/

theorem opclass_toNat (op : Byte) : (opclass op).toNat = op.toNat % 64 := (opcode_fields_arith op).1

theorem opclass_eq_iff (op : Byte) (k : BitVec 6) : opclass op = k ↔ op.toNat % 64 = k.toNat := by
  rw [← opclass_toNat, BitVec.toNat_inj]

/-- The opclasses with a relation are exactly the branches. -/
theorem branchConditionOf_isSome_iff (i : Instr) :
    (branchConditionOf i.fields.opclass).isSome = true ↔ IsBranch i := by
  have h : ∀ k : BitVec 6, (branchConditionOf k).isSome = true ↔ k.toNat ∈ [32, 33, 34, 35, 36, 37] := by decide
  exact h _

/-- An ALU operation, LOADP or LOAD: exactly the opclasses that produce a result. -/
theorem aluOperationOf_isSome_or_load_iff (i : Instr) :
    ((aluOperationOf i.fields.opclass).isSome = true ∨ i.fields.opclass = 25#6) ∨ i.fields.opclass = 24#6 ↔
      ProducesResult i := by
  have h : ∀ k : BitVec 6, ((aluOperationOf k).isSome = true ∨ k = 25#6) ∨ k = 24#6 ↔
      k.toNat ∈ [0, 1, 2, 3, 4, 5, 8, 9, 12, 13, 24, 25] := by decide
  exact h _

/-! ## Destination and redirect flag -/

/-- Only RET and STORE have no destination (R89). -/
theorem destination_controlSignals (op a b c : Byte) :
    (controlSignals op a b c).destination = if opclass op = 39#6 ∨ opclass op = 16#6 then none else some c := by
  simp [controlSignals]

/-- The redirect flag as the decoder computes it: CALL, a relation, or a result whose destination is the PC. -/
theorem controlFlowRedirected_iff (op a b c : Byte) :
    (controlSignals op a b c).controlFlowRedirected = true ↔
      opclass op = 38#6 ∨ (branchConditionOf (opclass op)).isSome = true ∨
        ((((aluOperationOf (opclass op)).isSome = true ∨ opclass op = 25#6) ∨ opclass op = 24#6) ∧
          (controlSignals op a b c).destination = some 6#8) := by
  simp only [controlSignals, Bool.or_eq_true, Bool.and_eq_true, beq_iff_eq, or_assoc]
  rfl

/-- An instruction that produces a result is neither RET nor STORE, so its destination is its byte `c`. -/
theorem destination_of_producesResult {op a b c : Byte} (h : ProducesResult (decode op a b c)) :
    (controlSignals op a b c).destination = some c := by
  rw [destination_controlSignals, if_neg]
  rintro (hk | hk) <;> simp [ProducesResult, hk] at h

/-- R90: the redirect flag by the kind of the decoded instruction. -/
theorem controlFlowRedirected_iff_kind (op a b c : Byte) :
    (controlSignals op a b c).controlFlowRedirected = true ↔
      op.toNat % 64 = 38 ∨ IsBranch (decode op a b c) ∨ (ProducesResult (decode op a b c) ∧ c = 6#8) := by
  have hk : opclass op = (decode op a b c).fields.opclass := by rw [fields_decode]
  have hdest : ProducesResult (decode op a b c) →
      ((controlSignals op a b c).destination = some 6#8 ↔ c = 6#8) := fun hp => by
    rw [destination_of_producesResult hp, Option.some_inj]
  rw [controlFlowRedirected_iff, opclass_eq_iff, hk, branchConditionOf_isSome_iff,
    aluOperationOf_isSome_or_load_iff, and_congr_right hdest]
  rfl

/-! ## The obligations -/

/-- Settles O4: the three fields of the opcode byte by arithmetic, carried through the decoder. -/
theorem opcodeFieldsReachEveryInstruction : Obligations.OpcodeFieldsReachEveryInstruction := by
  intro op a b c
  simp only [fields_decode, leftOperand_controlSignals, rightOperand_controlSignals]
  exact ⟨opclass_toNat op, ofFlag_immLeft op a, ofFlag_immRight op b, ofFlag_immLeft op a, ofFlag_immRight op b⟩

/-- Settles O7: RET and STORE by their opclasses, and the redirect flag by the kind of the instruction. -/
theorem destinationAndRedirectFlag : Obligations.DestinationAndRedirectFlag := by
  intro op a b c
  refine ⟨?_, controlFlowRedirected_iff_kind op a b c⟩
  simp only [destination_controlSignals, opclass_eq_iff]
  rfl

/-- Settles O5: the flag makes the operand a literal, and a literal resolves to itself. -/
theorem immediateIsTheByteItself : Obligations.ImmediateIsTheByteItself := by
  intro op a b c s
  constructor
  · intro (hIL : immLeft op = true)
    rw [leftOperand_controlSignals, hIL, ofFlag_true, resolve_imm]
  · intro (hIR : immRight op = true)
    rw [rightOperand_controlSignals, hIR, ofFlag_true, resolve_imm]

end Sys2Proof.Proofs.Encoding
end

section
/-! PROOF. The branch condition evaluator compares bytes as unsigned integers (42_branch.md R180). -/

namespace Sys2Proof.Proofs.Branch

open Sys2Proof.Machine

@[simp] theorem holds_equal (L R : Byte) : holds .equal L R = true ↔ L.toNat = R.toNat :=
  beq_iff_eq.trans BitVec.toNat_inj.symm

@[simp] theorem holds_notEqual (L R : Byte) : holds .notEqual L R = true ↔ L.toNat ≠ R.toNat :=
  bne_iff_ne.trans BitVec.toNat_ne_iff_ne.symm

@[simp] theorem holds_less (L R : Byte) : holds .less L R = true ↔ L.toNat < R.toNat :=
  decide_eq_true_iff.trans BitVec.lt_def

@[simp] theorem holds_lessEqual (L R : Byte) : holds .lessEqual L R = true ↔ L.toNat ≤ R.toNat :=
  decide_eq_true_iff.trans BitVec.le_def

@[simp] theorem holds_greater (L R : Byte) : holds .greater L R = true ↔ R.toNat < L.toNat :=
  holds_less R L

@[simp] theorem holds_greaterEqual (L R : Byte) : holds .greaterEqual L R = true ↔ R.toNat ≤ L.toNat :=
  holds_lessEqual R L

/-- Settles O14: each relation by its own rule. -/
theorem relationsCompareUnsignedBytes : Obligations.RelationsCompareUnsignedBytes := fun L R =>
  ⟨holds_equal L R, holds_notEqual L R, holds_less L R, holds_lessEqual L R, holds_greater L R,
    holds_greaterEqual L R⟩

end Sys2Proof.Proofs.Branch
end

section
/-! PROOF. The call-return stack controller's pop (44_call_return.md R221). -/

namespace Sys2Proof.Proofs.CallReturn

open Sys2Proof.Machine

/-- Settles O35: an empty stack by `pop_empty`; otherwise `pop_ok` names the state left, where only the cursor differs. -/
theorem popReturnsTheLastEntry : Obligations.PopReturnsTheLastEntry := by
  intro s
  refine ⟨pop_empty, fun hpos => ?_⟩
  have hcursor : s.sp - 1 + 1 = s.sp := Nat.sub_add_cancel hpos
  exact ⟨{ s with sp := s.sp - 1 }, pop_ok hpos.ne', hcursor, rfl⟩

end Sys2Proof.Proofs.CallReturn
end

section
/-! PROOF. Fault entry and the two terminal run states (60_exceptions.md R250, R251). -/

namespace Sys2Proof.Proofs.Exceptions

open Sys2Proof.Machine

/-- Fault entry written out: of all the state's fields only the run state and the record change (R250 steps 2 and 3). -/
theorem enterFaulted_eq (s : State) (k : FaultKind) :
    s.enterFaulted k = { s with run := .faulted, fault := some { kind := k, pc := s.x.x6 } } := rfl

/-- R251: a step with a next state starts Running. -/
theorem step_ne_next_of_not_running {s : State} (h : s.run ≠ .running) (t : State) : step s ≠ .next t := by
  intro hstep
  obtain ⟨hrun, -⟩ := step_eq_next hstep
  exact h hrun

/-- Settles O36: what follows a fault is dropped (R250 step 1), and the cycle's end enters the fault. -/
theorem faultEntry : Obligations.FaultEntry := by
  intro k s rest
  rw [Result.andThen_raise, Result.finish_raise, enterFaulted_eq]

/-- Settles O38: only Running has a next state, and each terminal state stops by its own rule. -/
theorem haltedAndFaultedAreTerminal : Obligations.HaltedAndFaultedAreTerminal := by
  intro s hterminal
  have hrun : s.run ≠ .running := by
    rcases hterminal with h | h <;> simp [h]
  exact ⟨step_ne_next_of_not_running hrun, step_halted, step_faulted⟩

end Sys2Proof.Proofs.Exceptions
end

section
/-! PROOF. The state after reset (70_reset_and_hazards.md R270, R271). -/

namespace Sys2Proof.Proofs.Reset

open Sys2Proof.Machine

/-- R270: the PC (index 6) and the storage cell behind r7 (index 7) are registers here like the other six. -/
theorem reg_boot (image : List Byte) (input : List InputItem) (j : Fin 8) : (State.boot image input).reg j = 0 := by
  change RegFile.reset.get j = 0
  fin_cases j <;> rfl

/-- R271: PROM is the finished image; an image of the full size loses nothing to the loader's cut. -/
theorem prom_boot {image : List Byte} (hlen : image.length = 256) (input : List InputItem) :
    (State.boot image input).prom = Memory.writeBytes [] 0 image := by
  have hcut : image.take Config.memBytes = image := List.take_of_length_le hlen.le
  rw [State.boot, hcut]

/-- R270: every byte of PROM reads as the image's byte at the same address. -/
theorem read_prom_boot {image : List Byte} (hlen : image.length = 256) (input : List InputItem) {a : Nat} (ha : a < 256) :
    (State.boot image input).prom.read a = image.getD a 0 := by
  have hempty : Memory.wf [] = true := rfl
  rw [prom_boot hlen, Memory.read_writeBytes hempty (by omega), if_pos (by omega), Nat.sub_zero]

/-- Settles O44: registers by `reg_boot`, PROM by `read_prom_boot`; DATA and the call stack are memories with no cell
listed, and every other field is the reset value itself. -/
theorem resetState : Obligations.ResetState := fun image input hlen =>
  ⟨reg_boot image input, fun _ ha => read_prom_boot hlen input ha, Memory.read_nil, Memory.read_nil,
    rfl, rfl, rfl, rfl, rfl⟩

end Sys2Proof.Proofs.Reset
end

section
/-! PROOF. The decoder and the encoder undo each other, and every opcode byte has its one row of the opcode table
(30_encoding.md R81 to R87, R91). -/

namespace Sys2Proof.Proofs.Codec

open Sys2Proof.Machine Sys2Proof.Laws

/-! ## Decoding and encoding -/

/-- An instruction is decoded by its opclass from its own fields. -/
theorem decodeClass_fields (i : Instr) :
    decodeClass i.fields.opclass.toNat i.fields.left i.fields.right i.fields.c = i := by
  cases i <;> rfl

/-- The instruction's own opcode byte and operand bytes decode to it. -/
theorem decode_opcode (i : Instr) : decode i.opcode i.fields.left.value i.fields.right.value i.fields.c = i := by
  rw [decode, Instr.opcode, opclass_opcodeByte, immLeft_opcodeByte, immRight_opcodeByte,
    Operand.ofFlag_isImmediate_value, Operand.ofFlag_isImmediate_value, decodeClass_fields]

/-- The opcode byte of a decoded instruction is the byte it was decoded from. -/
@[simp] theorem opcode_decode (op a b c : Byte) : (decode op a b c).opcode = op := by
  rw [Instr.opcode, fields_decode, Operand.isImmediate_ofFlag, Operand.isImmediate_ofFlag, opcodeByte_fields]

/-- Settles O2: the four bytes of an encoding are what `decode_opcode` decodes, and the decoder leaves the rest. -/
theorem decodeInvertsEncode : Obligations.DecodeInvertsEncode := by
  intro i rest
  have hbytes : decodeBytes (encode i ++ rest) =
      .ok (decode i.opcode i.fields.left.value i.fields.right.value i.fields.c, rest) := rfl
  rw [hbytes, decode_opcode]

/-- Settles O3: each of the four bytes is a field that decoding keeps. -/
theorem encodeInvertsDecode : Obligations.EncodeInvertsDecode := by
  intro op a b c
  rw [encode, opcode_decode, fields_decode, Operand.value_ofFlag, Operand.value_ofFlag]

/-- Settles O1: the decoder evaluated on the twelve words. -/
theorem specWordsDecode : Obligations.SpecWordsDecode := by
  unfold Obligations.SpecWordsDecode
  decide

/-! ## The opcode table -/

/-- Every instruction's opcode byte lies in the row of its mnemonic: the per-instruction family, put together. -/
theorem encodesInTableRow : ∀ i : Instr, EncodesInTableRow.Statement i
  | .or l r c => EncodesInTableRow.or l r c
  | .and l r c => EncodesInTableRow.and l r c
  | .add l r c => EncodesInTableRow.add l r c
  | .sub l r c => EncodesInTableRow.sub l r c
  | .not l r c => EncodesInTableRow.not l r c
  | .xor l r c => EncodesInTableRow.xor l r c
  | .shl l r c => EncodesInTableRow.shl l r c
  | .shr l r c => EncodesInTableRow.shr l r c
  | .mod l r c => EncodesInTableRow.mod l r c
  | .div l r c => EncodesInTableRow.div l r c
  | .store l r c => EncodesInTableRow.store l r c
  | .load l r c => EncodesInTableRow.load l r c
  | .loadp l r c => EncodesInTableRow.loadp l r c
  | .beq l r c => EncodesInTableRow.beq l r c
  | .bne l r c => EncodesInTableRow.bne l r c
  | .blt l r c => EncodesInTableRow.blt l r c
  | .ble l r c => EncodesInTableRow.ble l r c
  | .bgt l r c => EncodesInTableRow.bgt l r c
  | .bge l r c => EncodesInTableRow.bge l r c
  | .call l r c => EncodesInTableRow.call l r c
  | .ret l r c => EncodesInTableRow.ret l r c
  | .nop6 l r c => EncodesInTableRow.nop6 l r c
  | .nop7 l r c => EncodesInTableRow.nop7 l r c
  | .nop10 l r c => EncodesInTableRow.nop10 l r c
  | .nop11 l r c => EncodesInTableRow.nop11 l r c
  | .nop14 l r c => EncodesInTableRow.nop14 l r c
  | .nop15 l r c => EncodesInTableRow.nop15 l r c
  | .nop17 l r c => EncodesInTableRow.nop17 l r c
  | .nop18 l r c => EncodesInTableRow.nop18 l r c
  | .nop19 l r c => EncodesInTableRow.nop19 l r c
  | .nop20 l r c => EncodesInTableRow.nop20 l r c
  | .nop21 l r c => EncodesInTableRow.nop21 l r c
  | .nop22 l r c => EncodesInTableRow.nop22 l r c
  | .nop23 l r c => EncodesInTableRow.nop23 l r c
  | .nop26 l r c => EncodesInTableRow.nop26 l r c
  | .nop27 l r c => EncodesInTableRow.nop27 l r c
  | .nop28 l r c => EncodesInTableRow.nop28 l r c
  | .nop29 l r c => EncodesInTableRow.nop29 l r c
  | .nop30 l r c => EncodesInTableRow.nop30 l r c
  | .nop31 l r c => EncodesInTableRow.nop31 l r c
  | .nop40 l r c => EncodesInTableRow.nop40 l r c
  | .nop41 l r c => EncodesInTableRow.nop41 l r c
  | .nop42 l r c => EncodesInTableRow.nop42 l r c
  | .nop43 l r c => EncodesInTableRow.nop43 l r c
  | .nop44 l r c => EncodesInTableRow.nop44 l r c
  | .nop45 l r c => EncodesInTableRow.nop45 l r c
  | .nop46 l r c => EncodesInTableRow.nop46 l r c
  | .nop47 l r c => EncodesInTableRow.nop47 l r c
  | .nop48 l r c => EncodesInTableRow.nop48 l r c
  | .nop49 l r c => EncodesInTableRow.nop49 l r c
  | .nop50 l r c => EncodesInTableRow.nop50 l r c
  | .nop51 l r c => EncodesInTableRow.nop51 l r c
  | .nop52 l r c => EncodesInTableRow.nop52 l r c
  | .nop53 l r c => EncodesInTableRow.nop53 l r c
  | .nop54 l r c => EncodesInTableRow.nop54 l r c
  | .nop55 l r c => EncodesInTableRow.nop55 l r c
  | .nop56 l r c => EncodesInTableRow.nop56 l r c
  | .nop57 l r c => EncodesInTableRow.nop57 l r c
  | .nop58 l r c => EncodesInTableRow.nop58 l r c
  | .nop59 l r c => EncodesInTableRow.nop59 l r c
  | .nop60 l r c => EncodesInTableRow.nop60 l r c
  | .nop61 l r c => EncodesInTableRow.nop61 l r c
  | .nop62 l r c => EncodesInTableRow.nop62 l r c
  | .nop63rr a b c => EncodesInTableRow.nop63rr a b c
  | .nop63ri a b c => EncodesInTableRow.nop63ri a b c
  | .nop63ir a b c => EncodesInTableRow.nop63ir a b c
  | .halt a b c => EncodesInTableRow.halt a b c

/-- Two rows that match one byte agree on the bits that both of them fix. -/
theorem agree_of_matches {row row' : TableRow} {op : Byte} (h : row.Matches op = true) (h' : row'.Matches op = true) :
    row.pattern &&& row'.mask = row'.pattern &&& row.mask := by
  have hp : op &&& row.mask = row.pattern := beq_iff_eq.1 h
  have hp' : op &&& row'.mask = row'.pattern := beq_iff_eq.1 h'
  rw [← hp, ← hp', BitVec.and_assoc, BitVec.and_assoc, BitVec.and_comm row.mask]

/-- No two rows of the table agree on the bits that both of them fix. -/
theorem eq_of_agree : ∀ row ∈ opcodeTable, ∀ row' ∈ opcodeTable,
    row.pattern &&& row'.mask = row'.pattern &&& row.mask → row' = row := by
  decide +kernel

/-- Settles O6: the decoded instruction's row has its opcode byte, which is `op`, and it is the only one since rows that
match one byte agree on the bits both fix. -/
theorem everyOpcodeByteHasOneRow : Obligations.EveryOpcodeByteHasOneRow := by
  intro op a b c
  obtain ⟨row, hrow, hmnemonic, hmatch⟩ := encodesInTableRow (decode op a b c)
  rw [opcode_decode] at hmatch
  refine ⟨row, hrow, hmatch, hmnemonic, fun row' hrow' hmatch' => ?_⟩
  exact eq_of_agree row hrow row' hrow' (agree_of_matches hmatch hmatch')

/-! ## The decoder's wires (10_state.md R36 to R38) -/

/-- D19: the low four bits of the opcode byte are the code of its ALU operation. -/
theorem aluOfCode_of_aluOperationOf : ∀ (op : Byte) (f : AluOp), aluOperationOf (opclass op) = some f →
    aluOfCode (op.extractLsb' 0 4) = some f := by
  have h : ∀ op : Byte, (aluOperationOf (opclass op)).isSome = true →
      aluOfCode (op.extractLsb' 0 4) = aluOperationOf (opclass op) := by decide +kernel
  intro op f hf
  rw [h op (by rw [hf]; rfl), hf]

/-- D19: the low three bits of the opcode byte are the code of its relation. -/
theorem relOfCode_of_branchConditionOf : ∀ (op : Byte) (q : Rel), branchConditionOf (opclass op) = some q →
    relOfCode (op.extractLsb' 0 3) = some q := by
  have h : ∀ op : Byte, (branchConditionOf (opclass op)).isSome = true →
      relOfCode (op.extractLsb' 0 3) = branchConditionOf (opclass op) := by decide +kernel
  intro op q hq
  rw [h op (by rw [hq]; rfl), hq]

theorem aluPorts_invalid (code : BitVec 4) (L R : Byte) : aluPorts false code L R = ⟨none, none⟩ := rfl

theorem branchPorts_invalid (code : BitVec 3) (L R : Byte) : branchPorts false code L R = false := rfl

theorem aluPorts_result {code : BitVec 4} {f : AluOp} (hf : aluOfCode code = some f) {L R v : Byte}
    (hv : alu f L R = .ok v) : aluPorts true code L R = ⟨some v, none⟩ := by
  simp [aluPorts, hf, hv]

theorem aluPorts_fault {code : BitVec 4} {f : AluOp} (hf : aluOfCode code = some f) {L R : Byte} {e : ArithFault}
    (he : alu f L R = .error e) : aluPorts true code L R = ⟨none, some e⟩ := by
  simp [aluPorts, hf, he]

theorem branchPorts_relation {code : BitVec 3} {q : Rel} (hq : relOfCode code = some q) (L R : Byte) :
    branchPorts true code L R = holds q L R := by
  simp [branchPorts, hq]

/-- Settles O8: with an operation or a relation, the wires' code is its own; with none, the valid bit is 0. -/
theorem wiresDriveAluAndBranchUnit : Obligations.WiresDriveAluAndBranchUnit := by
  intro op a b c L R
  simp only [decoderWires, controlSignals]
  constructor
  · cases hf : aluOperationOf (opclass op) with
    | none => exact aluPorts_invalid _ L R
    | some f =>
      have hcode := aluOfCode_of_aluOperationOf op f hf
      cases hv : alu f L R with
      | ok v => simpa [hv] using aluPorts_result hcode hv
      | error e => simpa [hv] using aluPorts_fault hcode hv
  · cases hq : branchConditionOf (opclass op) with
    | none => exact branchPorts_invalid _ L R
    | some q => exact branchPorts_relation (relOfCode_of_branchConditionOf op q hq) L R

end Sys2Proof.Proofs.Codec
end

section
/-! PROOF. The kinds of instruction, by opclass: one excludes the others, and it chooses the body of `exec`
(30_encoding.md R84, R85, R94). -/

namespace Sys2Proof.Proofs.Kinds

open Sys2Proof.Machine

/-! ## One kind excludes the others -/

theorem kinds_of_alu {k : BitVec 6} {f : AluOp} (h : aluOperationOf k = some f) :
    k ≠ 16#6 ∧ k ≠ 24#6 ∧ k ≠ 25#6 ∧ k ≠ 38#6 ∧ k ≠ 39#6 ∧ branchConditionOf k = none := by
  have hall : ∀ k : BitVec 6, (aluOperationOf k).isSome = true →
      k ≠ 16#6 ∧ k ≠ 24#6 ∧ k ≠ 25#6 ∧ k ≠ 38#6 ∧ k ≠ 39#6 ∧ branchConditionOf k = none := by decide
  exact hall k (by rw [h]; rfl)

theorem kinds_of_relation {k : BitVec 6} {q : Rel} (h : branchConditionOf k = some q) :
    k ≠ 16#6 ∧ k ≠ 24#6 ∧ k ≠ 25#6 ∧ k ≠ 38#6 ∧ k ≠ 39#6 ∧ aluOperationOf k = none := by
  have hall : ∀ k : BitVec 6, (branchConditionOf k).isSome = true →
      k ≠ 16#6 ∧ k ≠ 24#6 ∧ k ≠ 25#6 ∧ k ≠ 38#6 ∧ k ≠ 39#6 ∧ aluOperationOf k = none := by decide
  exact hall k (by rw [h]; rfl)

theorem kinds_of_nop {i : Instr} (h : IsNop i) :
    i.fields.opclass ≠ 16#6 ∧ i.fields.opclass ≠ 24#6 ∧ i.fields.opclass ≠ 25#6 ∧ i.fields.opclass ≠ 38#6 ∧
      i.fields.opclass ≠ 39#6 ∧ aluOperationOf i.fields.opclass = none ∧ branchConditionOf i.fields.opclass = none := by
  obtain ⟨hres, hbranch, hother, -⟩ := h
  rw [← Encoding.aluOperationOf_isSome_or_load_iff] at hres
  rw [← Encoding.branchConditionOf_isSome_iff] at hbranch
  simp only [List.mem_cons, List.not_mem_nil, or_false, not_or] at hother hres
  obtain ⟨h16, h38, h39⟩ := hother
  obtain ⟨⟨hf, h25⟩, h24⟩ := hres
  exact ⟨h16, h24, h25, h38, h39, by simpa using hf, by simpa using hbranch⟩

theorem not_kinds_of_producesResult {i : Instr} (h : ProducesResult i) :
    i.fields.opclass ≠ 38#6 ∧ i.fields.opclass ≠ 39#6 ∧ ¬ IsBranch i := by
  have hall : ∀ k : BitVec 6, k.toNat ∈ [0, 1, 2, 3, 4, 5, 8, 9, 12, 13, 24, 25] →
      k ≠ 38#6 ∧ k ≠ 39#6 ∧ k.toNat ∉ [32, 33, 34, 35, 36, 37] := by decide
  exact hall _ h

theorem not_kinds_of_isBranch {i : Instr} (h : IsBranch i) :
    i.fields.opclass ≠ 38#6 ∧ i.fields.opclass ≠ 39#6 ∧ ¬ ProducesResult i := by
  have hall : ∀ k : BitVec 6, k.toNat ∈ [32, 33, 34, 35, 36, 37] →
      k ≠ 38#6 ∧ k ≠ 39#6 ∧ k.toNat ∉ [0, 1, 2, 3, 4, 5, 8, 9, 12, 13, 24, 25] := by decide
  exact hall _ h

/-! ## The kind chooses the body -/

/-- The opclass chooses the body: an ALU operation. -/
theorem exec_alu {i : Instr} {f : AluOp} (h : aluOperationOf i.fields.opclass = some f) (s : State) :
    exec i s = aluInstr f i.fields.left i.fields.right i.fields.c s := by
  conv_lhs => rw [← Codec.decodeClass_fields i]
  unfold aluOperationOf at h
  split at h
  case h_11 => cases h -- an opclass with no operation
  all_goals
    next hk =>
      cases h
      rw [hk]
      rfl

theorem exec_load {i : Instr} (h : i.fields.opclass = 24#6) (s : State) :
    exec i s = execLoad i.fields.left i.fields.right i.fields.c s := by
  conv_lhs => rw [← Codec.decodeClass_fields i, h]
  rfl

theorem exec_loadp {i : Instr} (h : i.fields.opclass = 25#6) (s : State) :
    exec i s = execLoadp i.fields.left i.fields.right i.fields.c s := by
  conv_lhs => rw [← Codec.decodeClass_fields i, h]
  rfl

theorem eq_store_of_opclass {i : Instr} (h : i.fields.opclass = 16#6) :
    i = .store i.fields.left i.fields.right i.fields.c := by
  conv_lhs => rw [← Codec.decodeClass_fields i, h]
  rfl

end Sys2Proof.Proofs.Kinds
end

section
/-! PROOF. Registers by their index byte, and operands: they are resolved first, left before right, and what follows sees
only their values (10_state.md R23, R24, 40_cycle.md R124, R125). -/

namespace Sys2Proof.Proofs.Operands

open Sys2Proof.Machine

/-! ## Reading and writing by an index byte -/

/-- An index byte in 0..6 is its cell's number. -/
theorem readReg_of_toNat_eq {i : Byte} {j : Fin 8} (hj : j.val ≤ 6) (hij : i.toNat = j.val) (s : State) :
    readReg i s = .ok (s.reg j) s := by
  obtain ⟨n, hn⟩ := j
  obtain rfl : i.toNat = n := hij
  exact readReg_cell hj s

theorem writeReg_of_toNat_eq {i : Byte} {j : Fin 8} (hj : j.val ≤ 6) (hij : i.toNat = j.val) (v : Byte) (s : State) :
    writeReg i v s = .ok () (s.setReg j v) := by
  obtain ⟨n, hn⟩ := j
  obtain rfl : i.toNat = n := hij
  exact writeReg_cell hj v s

/-- Settles O9: the cells, the four forms of the console's input, and the indices that name nothing. -/
theorem readRegEveryCase : Obligations.ReadRegEveryCase := by
  intro s i v rest
  refine ⟨fun j hj hij => readReg_of_toNat_eq hj hij s, ?_, ?_, ?_, ?_, fun hi => readReg_invalid hi s⟩
  all_goals
    rintro rfl hinput
    simp [readReg_io, inRead, hinput]

/-- Settles O10: the cells, the console, and the indices that name nothing. -/
theorem writeRegEveryCase : Obligations.WriteRegEveryCase := by
  intro s i v
  refine ⟨fun j hj hij => ?_, fun hi => ?_, fun hi => writeReg_invalid hi v s⟩
  · exact ⟨s.setReg j v, writeReg_of_toNat_eq hj hij v s, by simp, fun m hm => by simp [hm], rfl⟩
  · rw [hi, writeReg_io, outWrite]

/-! ## Operands before the rest of the cycle -/

/-- Resolving two immediates is no work. -/
@[simp] theorem resolveBoth_imm (L R : Byte) (s : State) : resolveBoth (.imm L) (.imm R) s = .ok (L, R) s := rfl

theorem eq_imm_of_isImmediate {o : Operand} (h : o.isImmediate = true) : o = .imm o.value := by
  cases o with
  | imm v => rfl
  | reg i => simp [Operand.isImmediate] at h

/-- Every instruction but RET resolves its operands, left before right, and then does the rest of its work on their
values. -/
theorem exec_resolves_first (i : Instr) (hret : i.fields.opclass ≠ 39#6) :
    ∃ work : Byte × Byte → State → Result Unit, ∀ s,
      exec i s = ((resolveBoth i.fields.left i.fields.right s).andThen work).finish := by
  rcases exec_forms i with ⟨f, -, hx⟩ | ⟨q, -, hx⟩ | ⟨-, hx⟩ | ⟨-, hx⟩ | ⟨-, hx⟩ | ⟨-, hx⟩ | ⟨hk, -⟩ | ⟨-, hx⟩ |
    ⟨-, hl, hr, hx⟩
  case inr.inr.inr.inr.inr.inr.inl => exact absurd hk hret
  case inr.inr.inr.inr.inr.inr.inr.inr =>
    refine ⟨fun _ s => .ok () (haltRun s), fun s => ?_⟩
    rw [hx, eq_imm_of_isImmediate hl, eq_imm_of_isImmediate hr, resolveBoth_imm]
    rfl
  all_goals exact ⟨_, hx⟩

/-- Below opclass 63 that rest is the same whatever the operands are. -/
theorem exec_decodeClass_resolves_first {k : Nat} (hk : k < 63) (hret : k ≠ 39) (c : Byte) :
    ∃ work : Byte × Byte → State → Result Unit, ∀ l r s,
      exec (decodeClass k l r c) s = ((resolveBoth l r s).andThen work).finish := by
  rcases Nat.lt_or_gt_of_ne hret with hbelow | habove <;> interval_cases k <;> exact ⟨_, fun _ _ _ => rfl⟩

/-- Settles O11: the same rest of the cycle runs on the same values from the same state. -/
theorem resolvedOperandsActAsImmediates : Obligations.ResolvedOperandsActAsImmediates := by
  intro k l r c s s1 s2 L R hk hret hl hr
  obtain ⟨work, hx⟩ := exec_decodeClass_resolves_first hk hret c
  rw [hx, hx, resolveBoth_of_ok hl hr, resolveBoth_imm]

/-- Settles O12: a fault or a wait in the resolution ends what `exec_resolves_first` begins with. -/
theorem operandFaultsComeFirst : Obligations.OperandFaultsComeFirst := by
  intro i s s1 s2 L k hret
  obtain ⟨work, hx⟩ := exec_resolves_first i hret
  refine ⟨fun hl => ?_, fun hl hr => ?_, fun hl => ?_, fun hl hr => ?_⟩
  · simp [hx, resolveBoth, hl]
  · simp [hx, resolveBoth, hl, hr]
  · simp [hx, resolveBoth, hl]
  · simp [hx, resolveBoth, hl, hr]

end Sys2Proof.Proofs.Operands
end

section
/-! PROOF. The ALU on unsigned integers (41_alu.md R151). -/

namespace Sys2Proof.Proofs.Alu

open Sys2Proof.Machine

/-! ## Each operation's result, and when it faults -/

theorem alu_sub_of_lt {L R : Byte} (h : L.toNat < R.toNat) : alu .sub L R = .error .subUnderflow :=
  if_pos (BitVec.lt_def.2 h)

theorem alu_sub_of_le {L R : Byte} (h : R.toNat ≤ L.toNat) : alu .sub L R = .ok (L - R) :=
  if_neg (by rw [BitVec.lt_def]; omega)

theorem alu_leftShift_of_ge {L R : Byte} (h : 8 ≤ R.toNat) : alu .leftShift L R = .error .shiftRange := if_pos h

theorem alu_leftShift_of_lt {L R : Byte} (h : R.toNat < 8) : alu .leftShift L R = .ok (L <<< R.toNat) :=
  if_neg (by omega)

theorem alu_rightShift_of_ge {L R : Byte} (h : 8 ≤ R.toNat) : alu .rightShift L R = .error .shiftRange := if_pos h

theorem alu_rightShift_of_lt {L R : Byte} (h : R.toNat < 8) : alu .rightShift L R = .ok (L >>> R.toNat) :=
  if_neg (by omega)

theorem alu_mod_of_zero {L R : Byte} (h : R.toNat = 0) : alu .mod L R = .error .modZero :=
  if_pos (BitVec.toNat_inj.1 h)

theorem alu_mod_of_ne_zero {L R : Byte} (h : R.toNat ≠ 0) : alu .mod L R = .ok (L % R) :=
  if_neg (mt BitVec.toNat_inj.2 h)

theorem alu_div_of_zero {L R : Byte} (h : R.toNat = 0) : alu .div L R = .error .divZero :=
  if_pos (BitVec.toNat_inj.1 h)

theorem alu_div_of_ne_zero {L R : Byte} (h : R.toNat ≠ 0) : alu .div L R = .ok (L / R) :=
  if_neg (mt BitVec.toNat_inj.2 h)

/-! ## The results as integers -/

theorem toNat_complement (L : Byte) : (~~~ L).toNat = 255 - L.toNat := by simp

theorem toNat_difference {L R : Byte} (h : R.toNat ≤ L.toNat) : (L - R).toNat = L.toNat - R.toNat :=
  BitVec.toNat_sub_of_le (BitVec.le_def.2 h)

theorem toNat_leftShift (L : Byte) (n : Nat) : (L <<< n).toNat = L.toNat * 2 ^ n % 256 := by
  rw [BitVec.toNat_shiftLeft, Nat.shiftLeft_eq]

theorem toNat_rightShift (L : Byte) (n : Nat) : (L >>> n).toNat = L.toNat / 2 ^ n := by
  rw [BitVec.toNat_ushiftRight, Nat.shiftRight_eq_div_pow]

/-- Settles O13: each operation by its own result and fault, and the result by its integer. -/
theorem aluValuesAndFaults : Obligations.AluValuesAndFaults := by
  intro L R
  refine ⟨fun n => ⟨rfl, BitVec.getLsbD_or⟩, fun n => ⟨rfl, BitVec.getLsbD_and⟩, fun n => ⟨rfl, BitVec.getLsbD_xor⟩,
    ⟨_, rfl, toNat_complement L⟩, ⟨_, rfl, BitVec.toNat_add L R⟩, alu_sub_of_lt,
    fun h => ⟨_, alu_sub_of_le h, toNat_difference h⟩, fun h => ⟨alu_leftShift_of_ge h, alu_rightShift_of_ge h⟩,
    fun h => ⟨⟨_, alu_leftShift_of_lt h, toNat_leftShift L _⟩, ⟨_, alu_rightShift_of_lt h, toNat_rightShift L _⟩⟩,
    fun h => ⟨alu_mod_of_zero h, alu_div_of_zero h⟩,
    fun h => ⟨⟨_, alu_mod_of_ne_zero h, BitVec.toNat_umod⟩, ⟨_, alu_div_of_ne_zero h, BitVec.toNat_udiv⟩⟩⟩

end Sys2Proof.Proofs.Alu
end

section
/-! PROOF. What each instruction does once its operands are resolved (41_alu.md, 42_branch.md, 43_memory_ops.md,
44_call_return.md, 40_cycle.md R126 to R132). -/

namespace Sys2Proof.Proofs.Instructions

open Sys2Proof.Machine Sys2Proof.Claims

/-! ## The state the operands leave, and the PC's advance from it -/

/-- Two resolved operands leave everything but the input. -/
theorem resolve_ok_both {l r : Operand} {s s1 s2 : State} {L R : Byte} (hl : resolve l s = .ok L s1)
    (hr : resolve r s1 = .ok R s2) : ∃ rest, s2 = { s with input := rest } := by
  obtain ⟨_, -, rfl⟩ := resolve_ok hl
  obtain ⟨rest, -, rfl⟩ := resolve_ok hr
  exact ⟨rest, rfl⟩

theorem advance_finish_of_le {s : State} (h : s.pc.toNat ≤ 251) : (advance s).finish = .next (s.setPc (s.pc + 4)) := by
  rw [advance_ok h, Result.finish_ok]

theorem advance_finish_off_end {s : State} (h : 252 ≤ s.pc.toNat) :
    (advance s).finish = .next (s.enterFaulted (.fetch .outOfRange)) := by
  rw [advance_off_end h, Result.finish_raise]

/-- r0 to r5 are not the PC. -/
theorem pc_setReg_of_le {j : Fin 8} (hj : j.val ≤ 5) (s : State) (v : Byte) : (s.setReg j v).pc = s.pc := by
  have hne : j ≠ 6 := fun h => by rw [h] at hj; exact absurd hj (by decide)
  rw [State.pc_setReg, if_neg hne]

theorem writeBack_of_toNat_eq {c : Byte} {j : Fin 8} (hj : j.val ≤ 5) (hcj : c.toNat = j.val) (v : Byte) (s : State) :
    writeBack c v s = advance (s.setReg j v) := by
  obtain ⟨n, hn⟩ := j
  obtain rfl : c.toNat = n := hcj
  exact writeBack_cell hj v s

/-! ## Instructions with a result -/

/-- An instruction whose cycle ends with the write-back of `value` delivers it to every destination. -/
theorem deliversResult_of_writeBack {mk : Operand → Operand → Byte → Instr} {runs : Byte → Byte → Prop}
    {value : State → Byte → Byte → Byte}
    (hx : ∀ l r c s rest L R, resolveBoth l r s = .ok (L, R) { s with input := rest } → runs L R →
      exec (mk l r c) s = (writeBack c (value s L R) { s with input := rest }).finish) :
    DeliversResult mk runs value := by
  intro l r c s s1 s2 L R hl hr hruns
  obtain ⟨rest, rfl⟩ := resolve_ok_both hl hr
  rw [hx l r c s rest L R (resolveBoth_of_ok hl hr) hruns]
  refine ⟨fun j hj hcj hpc => ?_, ?_, ?_, fun hc => ?_, fun j hj hcj hpc => ?_, ?_⟩
  · have hadv := pc_setReg_of_le hj { s with input := rest } (value s L R)
    rw [writeBack_of_toNat_eq hj hcj, advance_finish_of_le (by rw [hadv]; exact hpc), hadv]
    rfl
  · rintro rfl
    rw [writeBack_pc, Result.finish_ok]
  · rintro rfl hpc
    exact advance_finish_of_le hpc
  · rw [writeBack_invalid hc, Result.finish_raise]
  · have hadv := pc_setReg_of_le hj { s with input := rest } (value s L R)
    rw [writeBack_of_toNat_eq hj hcj, advance_finish_off_end (by rw [hadv]; exact hpc)]
  · rintro rfl hpc
    exact advance_finish_off_end hpc

/-- An ALU instruction delivers the ALU's result where there is one. -/
theorem deliversResult_of_alu {mk : Operand → Operand → Byte → Instr} {f : AluOp} {runs : Byte → Byte → Prop}
    {value : Byte → Byte → Byte} (hx : ∀ l r c s, exec (mk l r c) s = aluInstr f l r c s)
    (hvalue : ∀ L R, runs L R → alu f L R = .ok (value L R)) :
    DeliversResult mk runs fun _ => value := by
  refine deliversResult_of_writeBack fun l r c s rest L R hres hruns => ?_
  rw [hx, aluInstr, hres, Result.andThen_ok, aluResult, hvalue L R hruns]
  rfl

/-- An ALU instruction enters the ALU's fault where there is one. -/
theorem arithmeticFaultsWhen_of_alu {mk : Operand → Operand → Byte → Instr} {f : AluOp} {bad : Byte → Byte → Prop}
    {e : ArithFault} (hx : ∀ l r c s, exec (mk l r c) s = aluInstr f l r c s)
    (herror : ∀ L R, bad L R → alu f L R = .error e) : ArithmeticFaultsWhen mk bad e := by
  intro l r c s s1 s2 L R hl hr hbad
  rw [hx, aluInstr, resolveBoth_of_ok hl hr, Result.andThen_ok, aluResult, herror L R hbad]
  rfl

/-- A byte is the integer it holds, read back modulo 256. -/
theorem eq_ofNat_of_toNat_eq {v : Byte} {n : Nat} (h : v.toNat = n) : v = BitVec.ofNat 8 n := by
  rw [← h, BitVec.ofNat_toNat, BitVec.setWidth_eq]

/-- The result written as the byte of an integer. -/
theorem alu_eq_ofNat {f : AluOp} {L R v : Byte} {n : Nat} (hv : alu f L R = .ok v) (hn : v.toNat = n) :
    alu f L R = .ok (BitVec.ofNat 8 n) := by
  rw [hv, eq_ofNat_of_toNat_eq hn]

/-- Settles O15: four ALU operations that never fault. -/
theorem logicInstructionsDeliver : Obligations.LogicInstructionsDeliver :=
  ⟨deliversResult_of_alu (fun _ _ _ _ => rfl) fun _ _ _ => rfl,
    deliversResult_of_alu (fun _ _ _ _ => rfl) fun _ _ _ => rfl,
    deliversResult_of_alu (fun _ _ _ _ => rfl) fun _ _ _ => rfl,
    deliversResult_of_alu (fun _ _ _ _ => rfl) fun L _ _ => alu_eq_ofNat rfl (Alu.toNat_complement L)⟩

/-- Settles O16: ADD by its sum, SUB by its difference, and SUB's underflow. -/
theorem addAndSubDeliver : Obligations.AddAndSubDeliver :=
  ⟨deliversResult_of_alu (fun _ _ _ _ => rfl) fun L R _ => alu_eq_ofNat rfl (BitVec.toNat_add L R),
    deliversResult_of_alu (fun _ _ _ _ => rfl) fun _ _ h => alu_eq_ofNat (Alu.alu_sub_of_le h) (Alu.toNat_difference h),
    arithmeticFaultsWhen_of_alu (fun _ _ _ _ => rfl) fun _ _ => Alu.alu_sub_of_lt⟩

/-- Settles O17: SHL and SHR by the power of two, and the amounts out of range. -/
theorem shiftsDeliver : Obligations.ShiftsDeliver :=
  ⟨deliversResult_of_alu (fun _ _ _ _ => rfl) fun L _ h =>
      alu_eq_ofNat (Alu.alu_leftShift_of_lt h) (Alu.toNat_leftShift L _),
    deliversResult_of_alu (fun _ _ _ _ => rfl) fun L _ h =>
      alu_eq_ofNat (Alu.alu_rightShift_of_lt h) (Alu.toNat_rightShift L _),
    arithmeticFaultsWhen_of_alu (fun _ _ _ _ => rfl) fun _ _ => Alu.alu_leftShift_of_ge,
    arithmeticFaultsWhen_of_alu (fun _ _ _ _ => rfl) fun _ _ => Alu.alu_rightShift_of_ge⟩

/-- Settles O18: MOD by the remainder, DIV by the quotient, and the divisor 0. -/
theorem modAndDivDeliver : Obligations.ModAndDivDeliver :=
  ⟨deliversResult_of_alu (fun _ _ _ _ => rfl) fun _ _ h => alu_eq_ofNat (Alu.alu_mod_of_ne_zero h) BitVec.toNat_umod,
    deliversResult_of_alu (fun _ _ _ _ => rfl) fun _ _ h => alu_eq_ofNat (Alu.alu_div_of_ne_zero h) BitVec.toNat_udiv,
    arithmeticFaultsWhen_of_alu (fun _ _ _ _ => rfl) fun _ _ => Alu.alu_mod_of_zero,
    arithmeticFaultsWhen_of_alu (fun _ _ _ _ => rfl) fun _ _ => Alu.alu_div_of_zero⟩

/-- LOAD's result is the byte of DATA at ADDR. -/
theorem execLoad_of_ok {l r : Operand} {s s2 : State} {v : Byte × Byte} (c : Byte) (h : resolveBoth l r s = .ok v s2) :
    execLoad l r c s = (writeBack c (s2.loadData s2.addr) s2).finish := by
  rw [execLoad, h, Result.andThen_ok]

/-- LOADP's result is the byte of PROM at ADDR. -/
theorem execLoadp_of_ok {l r : Operand} {s s2 : State} {v : Byte × Byte} (c : Byte) (h : resolveBoth l r s = .ok v s2) :
    execLoadp l r c s = (writeBack c (s2.loadProgram s2.addr) s2).finish := by
  rw [execLoadp, h, Result.andThen_ok]

/-- Settles O19: the operands move neither ADDR nor a memory, so the byte is the one at ADDR before the instruction. -/
theorem loadsDeliver : Obligations.LoadsDeliver :=
  ⟨deliversResult_of_writeBack fun _ _ c _ _ _ _ hres _ => execLoad_of_ok c hres,
    deliversResult_of_writeBack fun _ _ c _ _ _ _ hres _ => execLoadp_of_ok c hres⟩

/-! ## STORE, the branches and the no-ops -/

/-- Settles O20: the store is made at ADDR in the state the operands leave, and then the PC advances. -/
theorem storeWritesLeftAtAddr : Obligations.StoreWritesLeftAtAddr := by
  intro l r c s s1 s2 L R hwf hl hr
  obtain ⟨rest, rfl⟩ := resolve_ok_both hl hr
  have hexec : exec (.store l r c) s = (advance (({ s with input := rest } : State).storeData s.addr L)).finish := by
    change execStore l r c s = _
    rw [execStore, resolveBoth_of_ok hl hr]
    rfl
  have hread : ∀ a : Nat, (s.data.write s.addr.toNat L).read a = if a = s.addr.toNat then L else s.data.read a :=
    Memory.read_write hwf _ _
  rcases Nat.lt_or_ge s.pc.toNat 252 with hpc | hpc
  · refine ⟨_, hexec.trans (advance_finish_of_le (Nat.le_of_lt_succ hpc)), hread, fun _ => rfl, fun h => ?_⟩
    exact absurd hpc (by omega)
  · refine ⟨_, hexec.trans (advance_finish_off_end hpc), hread, fun h => ?_, fun _ => rfl⟩
    exact absurd hpc (by omega)

/-- A branch goes to `c` when the evaluator says that its relation holds, and else advances. -/
theorem branchesWhen_of_holds {mk : Operand → Operand → Byte → Instr} {q : Rel} {rel : Nat → Nat → Prop}
    (hx : ∀ l r c s, exec (mk l r c) s = branchInstr q l r c s)
    (hq : ∀ L R, holds q L R = true ↔ rel L.toNat R.toNat) : BranchesWhen mk rel := by
  intro l r c s s1 s2 L R hl hr
  obtain ⟨rest, rfl⟩ := resolve_ok_both hl hr
  rw [hx, branchInstr, resolveBoth_of_ok hl hr, Result.andThen_ok]
  refine ⟨fun h => ?_, fun h hpc => ?_, fun h hpc => ?_⟩
  · rw [if_pos ((hq L R).2 h), Result.finish_ok]
  · rw [if_neg (mt (hq L R).1 h)]
    exact advance_finish_of_le hpc
  · rw [if_neg (mt (hq L R).1 h)]
    exact advance_finish_off_end hpc

/-- Settles O21: each branch by its own relation on unsigned integers. -/
theorem branchesGoToTargetWhenRelationHolds : Obligations.BranchesGoToTargetWhenRelationHolds :=
  ⟨branchesWhen_of_holds (fun _ _ _ _ => rfl) Branch.holds_equal,
    branchesWhen_of_holds (fun _ _ _ _ => rfl) Branch.holds_notEqual,
    branchesWhen_of_holds (fun _ _ _ _ => rfl) Branch.holds_less,
    branchesWhen_of_holds (fun _ _ _ _ => rfl) Branch.holds_lessEqual,
    branchesWhen_of_holds (fun _ _ _ _ => rfl) Branch.holds_greater,
    branchesWhen_of_holds (fun _ _ _ _ => rfl) Branch.holds_greaterEqual⟩

/-- An instruction with the body of the no-ops only advances. -/
theorem onlyAdvances_of_nopInstr {i : Instr} {l r : Operand} (hx : ∀ s, exec i s = nopInstr l r s) :
    OnlyAdvances i l r := by
  intro s s1 s2 L R hl hr
  obtain ⟨rest, rfl⟩ := resolve_ok_both hl hr
  rw [hx, nopInstr, resolveBoth_of_ok hl hr, Result.andThen_ok]
  exact ⟨fun hpc => advance_finish_of_le hpc, fun hpc => advance_finish_off_end hpc⟩

/-- The no-ops with any immediate flags have the one body. -/
theorem exec_nopForms : ∀ mk ∈ nopForms, ∀ l r c s, exec (mk l r c) s = nopInstr l r s := by
  unfold nopForms
  simp only [List.forall_mem_cons, List.not_mem_nil, IsEmpty.forall_iff, implies_true, and_true]
  and_intros <;> exact fun _ _ _ _ => rfl

/-- Settles O25: all no-ops have the one body, those of opclass 63 with their own immediate flags. -/
theorem noOpsOnlyAdvance : Obligations.NoOpsOnlyAdvance :=
  ⟨fun mk hmk l r c => onlyAdvances_of_nopInstr (exec_nopForms mk hmk l r c),
    fun _ _ _ => onlyAdvances_of_nopInstr fun _ => rfl,
    fun _ _ _ => onlyAdvances_of_nopInstr fun _ => rfl,
    fun _ _ _ => onlyAdvances_of_nopInstr fun _ => rfl⟩

/-- Settles O26: HALT's arm is its whole effect. -/
theorem haltOnlyHalts : Obligations.HaltOnlyHalts := fun _ _ _ _ => rfl

/-! ## Call and return -/

/-- Settles O34: a push writes one cell of the stack and moves the cursor. -/
theorem pushWritesTheNextEntry : Obligations.PushWritesTheNextEntry := by
  intro v s
  refine ⟨fun hfull => push_full hfull.ge v, fun hwf hsp => ⟨_, push_ok hsp v, rfl, ?_, fun k hk => ?_, rfl⟩⟩
  · rw [Memory.read_write hwf, if_pos rfl]
  · rw [Memory.read_write hwf, if_neg hk]

/-- CALL with room on the stack: its own address is pushed and the PC is `c`. -/
theorem exec_call_of_lt {l r : Operand} {s s2 : State} {v : Byte × Byte} (c : Byte)
    (hres : resolveBoth l r s = .ok v s2) (hsp : s2.sp < 256) :
    exec (.call l r c) s =
      .next (({ s2 with stack := s2.stack.write s2.sp s2.pc, sp := s2.sp + 1 } : State).setPc c) := by
  change execCall l r c s = _
  rw [execCall, hres, Result.andThen_ok, push_ok hsp, Result.andThen_ok, Result.finish_ok]

/-- CALL with 256 calls pending overflows. -/
theorem exec_call_of_ge {l r : Operand} {s s2 : State} {v : Byte × Byte} (c : Byte)
    (hres : resolveBoth l r s = .ok v s2) (hsp : 256 ≤ s2.sp) :
    exec (.call l r c) s = .next (s2.enterFaulted (.stack .overflow)) := by
  change execCall l r c s = _
  rw [execCall, hres, Result.andThen_ok, push_full hsp, Result.andThen_raise, Result.finish_raise]

/-- Settles O22: the operands leave the stack, the cursor and the PC that CALL pushes with. -/
theorem callPushesOwnAddress : Obligations.CallPushesOwnAddress := by
  intro l r c s s1 s2 L R hwf hl hr
  have hres := resolveBoth_of_ok hl hr
  obtain ⟨rest, rfl⟩ := resolve_ok_both hl hr
  exact ⟨fun hsp => ⟨_, exec_call_of_lt c hres hsp, rfl, Memory.read_write hwf _ _, rfl⟩,
    fun hsp => exec_call_of_ge c hres hsp⟩

/-- RET with a call pending: the popped address in the PC, and the advance from it. -/
theorem exec_ret_of_pos {s : State} (l r : Operand) (c : Byte) (hsp : 0 < s.sp) :
    exec (.ret l r c) s =
      (advance (({ s with sp := s.sp - 1 } : State).setPc (s.stack.read (s.sp - 1)))).finish := by
  change execRet l r c s = _
  rw [execRet, pop_ok hsp.ne', Result.andThen_ok]

/-- Setting the PC twice leaves the second address. -/
theorem setPc_setPc (s : State) (a b : Byte) : (s.setPc a).setPc b = s.setPc b := rfl

/-- RET with an address up to 251 popped goes 4 past it. -/
theorem exec_ret_of_le {s : State} (l r : Operand) (c : Byte) (hsp : 0 < s.sp)
    (hpc : (s.stack.read (s.sp - 1)).toNat ≤ 251) :
    exec (.ret l r c) s = .next (({ s with sp := s.sp - 1 } : State).setPc (s.stack.read (s.sp - 1) + 4)) := by
  rw [exec_ret_of_pos l r c hsp, advance_finish, State.pc_setPc, if_pos hpc, setPc_setPc]

/-- Settles O23: the advance from the popped address, and the empty stack. -/
theorem retGoesPastTheCall : Obligations.RetGoesPastTheCall := by
  intro l r c s
  refine ⟨fun hsp hpc => exec_ret_of_le l r c hsp hpc, fun hsp hpc => ?_, fun hsp => ?_⟩
  · rw [exec_ret_of_pos l r c hsp]
    exact advance_finish_off_end hpc
  · change execRet l r c s = _
    rw [execRet, pop_empty hsp, Result.andThen_raise, Result.finish_raise]

/-- Settles O24: RET reads back the entry that CALL wrote at the cursor. -/
theorem callThenReturnResumesAfterTheCall : Obligations.CallThenReturnResumesAfterTheCall := by
  intro l r l' r' c c' s s1 s2 L R hwf hsp hpc hl hr
  obtain ⟨t, hcall, htsp, hstack, ht⟩ := (callPushesOwnAddress l r c s s1 s2 L R hwf hl hr).1 hsp
  refine ⟨t, hcall, by rw [ht, State.pc_setPc], fun t' hstack' hsp' => ?_⟩
  have hcursor : t'.sp = s.sp + 1 := hsp'.trans htsp
  have hpopped : t'.stack.read (t'.sp - 1) = s.pc := by
    rw [hstack', hstack, if_pos (by omega)]
  rw [exec_ret_of_le l' r' c' (by omega) (by rw [hpopped]; exact hpc), hpopped, hcursor, Nat.add_sub_cancel]

end Sys2Proof.Proofs.Instructions
end

section
/-! PROOF. What an instruction leaves unchanged, field by field of the state (10_state.md R25, R33, R34, 20_memory.md R61,
44_call_return.md R224, R225). -/

namespace Sys2Proof.Proofs.Frames

open Sys2Proof.Machine

/-! ## The state after the PC's advance -/

/-- The state that the end of an advancing cycle reaches: the PC 4 on, or FetchFault(OutOfRange) entered (40_cycle.md R130). -/
def afterAdvance (u : State) : State :=
  if u.pc.toNat ≤ 251 then u.setPc (u.pc + 4) else u.enterFaulted (.fetch .outOfRange)

theorem advance_finish_eq (u : State) : (advance u).finish = .next (afterAdvance u) := advance_finish u

theorem afterAdvance_of_le {u : State} (h : u.pc.toNat ≤ 251) : afterAdvance u = u.setPc (u.pc + 4) := if_pos h

theorem afterAdvance_off_end {u : State} (h : ¬ u.pc.toNat ≤ 251) :
    afterAdvance u = u.enterFaulted (.fetch .outOfRange) := if_neg h

@[simp] theorem afterAdvance_prom (u : State) : (afterAdvance u).prom = u.prom := by unfold afterAdvance; split_ifs <;> rfl
@[simp] theorem afterAdvance_data (u : State) : (afterAdvance u).data = u.data := by unfold afterAdvance; split_ifs <;> rfl
@[simp] theorem afterAdvance_stack (u : State) : (afterAdvance u).stack = u.stack := by unfold afterAdvance; split_ifs <;> rfl
@[simp] theorem afterAdvance_sp (u : State) : (afterAdvance u).sp = u.sp := by unfold afterAdvance; split_ifs <;> rfl
@[simp] theorem afterAdvance_out (u : State) : (afterAdvance u).out = u.out := by unfold afterAdvance; split_ifs <;> rfl

theorem afterAdvance_reg {j : Fin 8} (hj : j ≠ 6) (u : State) : (afterAdvance u).reg j = u.reg j := by
  unfold afterAdvance
  split_ifs
  · rw [State.reg_setPc, if_neg hj]
  · rfl

/-! ## The next state of an instruction -/

/-- Every next state of an instruction, one constructor for each way to it: `exec_next` as a case split. -/
inductive NextState (i : Instr) (s : State) : State → Prop
  /-- A fault before any effect. -/
  | faulted (rest : List InputItem) (k : FaultKind) (hk : k ≠ .fetch .outOfRange) :
      NextState i s (({ s with input := rest } : State).enterFaulted k)
  | halted (hk : i.fields.opclass = 63#6) (hl : i.fields.left.isImmediate = true)
      (hr : i.fields.right.isImmediate = true) : NextState i s (haltRun s)
  /-- A result for r6. -/
  | resultToPc (rest : List InputItem) (v : Byte) (hi : ProducesResult i) (hc : i.fields.c = 6#8) :
      NextState i s (({ s with input := rest } : State).setPc v)
  | branchTaken (rest : List InputItem) (hi : IsBranch i) :
      NextState i s (({ s with input := rest } : State).setPc i.fields.c)
  | called (rest : List InputItem) (hk : i.fields.opclass = 38#6) (hsp : s.sp < 256) :
      NextState i s
        (({ s with input := rest, stack := s.stack.write s.sp s.pc, sp := s.sp + 1 } : State).setPc i.fields.c)
  /-- A branch not taken, or a no-op. -/
  | advanced (rest : List InputItem) (hi : IsBranch i ∨ IsNop i) : NextState i s (afterAdvance { s with input := rest })
  /-- A result for r0 to r5. -/
  | resultToCell (rest : List InputItem) (v : Byte) (hi : ProducesResult i) (hc : i.fields.c.toNat ≤ 5) :
      NextState i s (afterAdvance (({ s with input := rest } : State).setReg ⟨i.fields.c.toNat, by omega⟩ v))
  /-- A result for r7. -/
  | resultPrinted (rest : List InputItem) (v : Byte) (hi : ProducesResult i) (hc : i.fields.c = 7#8) :
      NextState i s (afterAdvance (outWrite v { s with input := rest }))
  | stored (rest : List InputItem) (v : Byte) (hk : i.fields.opclass = 16#6) :
      NextState i s (afterAdvance (({ s with input := rest } : State).storeData s.addr v))
  | returned (hk : i.fields.opclass = 39#6) (hsp : 0 < s.sp) :
      NextState i s (afterAdvance (({ s with sp := s.sp - 1 } : State).setPc (s.stack.read (s.sp - 1))))

theorem nextState_of_exec {i : Instr} {s t : State} (h : exec i s = .next t) : NextState i s t := by
  obtain ⟨rest, -, ⟨k, hk, rfl⟩ | ⟨hk, hl, hr, rfl⟩ | ⟨v, ⟨hi, hc⟩ | ⟨hi, rfl⟩, rfl⟩ | ⟨hk, hsp, rfl⟩ | ⟨u, hu, ht⟩⟩ :=
    exec_next h
  case inr.inr.inr.inr =>
    obtain rfl : t = afterAdvance u := ht
    obtain ⟨rfl, hi⟩ | ⟨hi, hc, v, rfl⟩ | ⟨hi, hc, v, rfl⟩ | ⟨hk, v, rfl⟩ | ⟨hk, hsp, -, rfl⟩ := hu
    · exact .advanced rest hi
    · exact .resultToCell rest v hi hc
    · exact .resultPrinted rest v hi hc
    · exact .stored rest v hk
    · exact .returned hk hsp
  · exact .faulted rest k hk
  · exact .halted hk hl hr
  · exact .resultToPc rest v hi hc
  · exact .branchTaken rest hi
  · exact .called rest hk hsp

/-! ## Registers -/

/-- A register other than the PC changes only as the destination of a result, and the cell behind r7 is none. -/
theorem reg_of_exec {i : Instr} {s t : State} (h : exec i s = .next t) {j : Fin 8} (hj : j ≠ 6)
    (hdest : ¬ (ProducesResult i ∧ i.fields.c.toNat = j.val ∧ i.fields.c.toNat ≤ 5)) : t.reg j = s.reg j := by
  cases nextState_of_exec h with
  | resultToCell rest v hi hc =>
    have hne : j ≠ ⟨i.fields.c.toNat, by omega⟩ := fun e => hdest ⟨hi, by rw [e], hc⟩
    rw [afterAdvance_reg hj, State.reg_setReg, if_neg hne]
    rfl
  | returned => rw [afterAdvance_reg hj, State.reg_setPc, if_neg hj]; rfl
  | advanced | resultPrinted | stored => rw [afterAdvance_reg hj]; rfl
  | resultToPc | branchTaken | called => rw [State.reg_setPc, if_neg hj]; rfl
  | faulted | halted => rfl

/-- The cell behind r7 is no cell that a result can be written to. -/
theorem io_cell_of_exec {i : Instr} {s t : State} (h : exec i s = .next t) : t.reg 7 = s.reg 7 := by
  refine reg_of_exec h (by decide) ?_
  rintro ⟨-, h7, h5⟩
  rw [h7] at h5
  exact absurd h5 (by decide)

/-- Settles O27: a cell but the PC's by `reg_of_exec`, and the one behind r7 by `io_cell_of_exec`. -/
theorem registerFrame : Obligations.RegisterFrame := fun _ _ _ h =>
  ⟨fun _ hj hdest => reg_of_exec h hj fun ⟨hi, hc, _⟩ => hdest ⟨hi, hc⟩, io_cell_of_exec h⟩

/-! ## Memories -/

theorem prom_of_exec {i : Instr} {s t : State} (h : exec i s = .next t) : t.prom = s.prom := by
  cases nextState_of_exec h <;> simp

/-- DATA is written by STORE alone, at ADDR. -/
theorem data_of_exec {i : Instr} {s t : State} (h : exec i s = .next t) :
    t.data = s.data ∨ (i.fields.opclass = 16#6 ∧ ∃ v, t.data = s.data.write s.addr.toNat v) := by
  cases nextState_of_exec h with
  | stored rest v hk => exact .inr ⟨hk, v, by simp⟩
  | _ => exact .inl (by simp)

/-- The call stack is written by CALL alone, at the cursor; CALL and RET alone move the cursor. -/
theorem stack_of_exec {i : Instr} {s t : State} (h : exec i s = .next t) :
    (t.stack = s.stack ∧ t.sp = s.sp) ∨
    (i.fields.opclass = 38#6 ∧ s.sp < 256 ∧ t.stack = s.stack.write s.sp s.pc ∧ t.sp = s.sp + 1) ∨
    (i.fields.opclass = 39#6 ∧ t.stack = s.stack ∧ t.sp + 1 = s.sp) := by
  cases nextState_of_exec h with
  | called rest hk hsp => exact .inr (.inl ⟨hk, hsp, by simp, by simp⟩)
  | returned hk hsp => exact .inr (.inr ⟨hk, by simp, by simpa using Nat.sub_add_cancel hsp⟩)
  | _ => exact .inl (by simp)

/-- Settles O28: one memory after the other; a write leaves every byte but the one at its address. -/
theorem memoryFrame : Obligations.MemoryFrame := by
  intro i s t hdata hstack h
  refine ⟨fun a => by rw [prom_of_exec h], fun a ha => ?_, fun k hk => ?_, fun h38 h39 => ?_⟩
  · obtain hd | ⟨h16, v, hd⟩ := data_of_exec h
    · rw [hd]
    · rw [hd, Memory.read_write hdata, if_neg fun e => ha ⟨h16, e⟩]
  · obtain ⟨hs, -⟩ | ⟨h38, -, hs, -⟩ | ⟨-, hs, -⟩ := stack_of_exec h
    · rw [hs]
    · rw [hs, Memory.read_write hstack, if_neg fun e => hk ⟨h38, e⟩]
    · rw [hs]
  · obtain ⟨-, hsp⟩ | ⟨hk, -⟩ | ⟨hk, -⟩ := stack_of_exec h
    · exact hsp
    · exact absurd hk h38
    · exact absurd hk h39

/-! ## The console -/

/-- A byte is printed by a result for r7 alone. -/
theorem out_of_exec {i : Instr} {s t : State} (h : exec i s = .next t) :
    t.out = s.out ∨ (ProducesResult i ∧ i.fields.c = 7#8 ∧ ∃ v, t.out = s.out ++ [v]) := by
  cases nextState_of_exec h with
  | resultPrinted rest v hi hc => exact .inr ⟨hi, hc, v, by simp⟩
  | _ => exact .inl (by simp)

/-- From the input `w` at most `n` items are consumed, from the front, to leave `w'`. -/
def Consumed (n : Nat) (w w' : List InputItem) : Prop := ∃ used, w = used ++ w' ∧ used.length ≤ n

theorem consumed_zero_iff {w w' : List InputItem} : Consumed 0 w w' ↔ w = w' := by
  simp [Consumed]

theorem Consumed.mono {m n : Nat} {w w' : List InputItem} (h : Consumed m w w') (hmn : m ≤ n) : Consumed n w w' := by
  obtain ⟨used, hw, hlen⟩ := h
  exact ⟨used, hw, hlen.trans hmn⟩

theorem Consumed.trans {m n : Nat} {w w' w'' : List InputItem} (h : Consumed m w w') (h' : Consumed n w' w'') :
    Consumed (m + n) w w'' := by
  obtain ⟨used, rfl, hlen⟩ := h
  obtain ⟨used', rfl, hlen'⟩ := h'
  exact ⟨used ++ used', by simp, by rw [List.length_append]; omega⟩

/-- A part of a cycle begun with the input `w` consumes at most `n` items, and waits only where fewer are there. -/
def Consumes {α : Type} (n : Nat) (w : List InputItem) : Result α → Prop
  | .ok _ t => Consumed n w t.input
  | .raise _ t => Consumed n w t.input
  | .wait => w.length < n

theorem consumes_ok {α : Type} (v : α) (s : State) : Consumes 0 s.input (.ok v s) := consumed_zero_iff.2 rfl

theorem consumes_raise {α : Type} (k : FaultKind) (s : State) : Consumes 0 s.input (.raise k s : Result α) :=
  consumed_zero_iff.2 rfl

theorem consumes_andThen {α β : Type} {m n : Nat} {w : List InputItem} {r : Result α} {f : α → State → Result β}
    (hr : Consumes m w r) (hf : ∀ v t, Consumes n t.input (f v t)) : Consumes (m + n) w (r.andThen f) := by
  cases r with
  | ok v t =>
    have hft := hf v t
    rw [Result.andThen_ok]
    cases hfv : f v t with
    | ok v' t' => rw [hfv] at hft; exact Consumed.trans hr hft
    | raise k t' => rw [hfv] at hft; exact Consumed.trans hr hft
    | wait =>
      rw [hfv] at hft
      obtain ⟨used, rfl, hlen⟩ := (hr : Consumed m w t.input)
      have hshort : t.input.length < n := hft
      change (used ++ t.input).length < m + n
      rw [List.length_append]
      omega
  | raise k t => exact Consumed.mono hr (Nat.le_add_right m n)
  | wait => exact Nat.lt_of_lt_of_le hr (Nat.le_add_right m n)

/-- The items an operand can consume. -/
def itemsOf (o : Operand) : Nat := if o.isImmediate then 0 else 1

theorem consumes_inRead (s : State) : Consumes 1 s.input (inRead s) := by
  rcases inRead_cases s with ⟨v, rest, hi, e⟩ | ⟨rest, hi, e⟩ | ⟨rest, hi, e⟩ | ⟨hi, e⟩ <;> rw [e]
  · exact ⟨[.byte v], hi, le_rfl⟩
  · exact ⟨[.bad], hi, le_rfl⟩
  · exact ⟨[], rfl, Nat.zero_le 1⟩
  · simp [Consumes, hi]

theorem consumes_readReg (i : Byte) (s : State) : Consumes 1 s.input (readReg i s) := by
  rcases regSel_cases i with ⟨rfl, -⟩ | ⟨h, -⟩ | ⟨h, -⟩
  · exact consumes_inRead s
  · rw [readReg_cell h]; exact ⟨[], rfl, Nat.zero_le 1⟩
  · rw [readReg_invalid h]; exact ⟨[], rfl, Nat.zero_le 1⟩

theorem consumes_resolve (o : Operand) (s : State) : Consumes (itemsOf o) s.input (resolve o s) := by
  cases o with
  | imm v => exact consumed_zero_iff.2 rfl
  | reg i => exact consumes_readReg i s

theorem consumes_resolveBoth (l r : Operand) (s : State) :
    Consumes (itemsOf l + itemsOf r) s.input (resolveBoth l r s) :=
  consumes_andThen (consumes_resolve l s) fun _ t =>
    consumes_andThen (n := 0) (consumes_resolve r t) fun _ _ => consumed_zero_iff.2 rfl

theorem consumes_advance (s : State) : Consumes 0 s.input (advance s) := by
  rw [advance_eq]
  split_ifs <;> exact consumed_zero_iff.2 rfl

theorem consumes_writeBack (c v : Byte) (s : State) : Consumes 0 s.input (writeBack c v s) := by
  rcases dest_cases c with h | rfl | rfl | h
  · rw [writeBack_cell h]; exact consumes_advance _
  · exact consumed_zero_iff.2 rfl
  · exact consumes_advance (outWrite v s)
  · rw [writeBack_invalid h]; exact consumed_zero_iff.2 rfl

theorem consumes_push (v : Byte) (s : State) : Consumes 0 s.input (push v s) := by
  unfold push
  split_ifs <;> exact consumed_zero_iff.2 rfl

theorem consumes_pop (s : State) : Consumes 0 s.input (pop s) := by
  unfold pop
  split_ifs <;> exact consumed_zero_iff.2 rfl

theorem consumes_aluResult (f : AluOp) (L R : Byte) (s : State) : Consumes 0 s.input (aluResult f L R s) := by
  unfold aluResult
  split <;> exact consumed_zero_iff.2 rfl

/-- The items an instruction can consume: its operands', and none for RET, which resolves none. -/
def itemsRead (i : Instr) : Nat :=
  if i.fields.opclass = 39#6 then 0 else itemsOf i.fields.left + itemsOf i.fields.right

/-- An instruction but RET whose work after the operands consumes nothing. -/
theorem consumes_resolveBoth_then {i : Instr} (hret : i.fields.opclass ≠ 39#6)
    {f : Byte × Byte → State → Result Unit} (hf : ∀ v t, Consumes 0 t.input (f v t)) (s : State) :
    Consumes (itemsRead i) s.input ((resolveBoth i.fields.left i.fields.right s).andThen f) := by
  rw [itemsRead, if_neg hret]
  exact consumes_andThen (n := 0) (consumes_resolveBoth _ _ s) hf

/-- Every instruction's cycle ends a part that consumes no more than its operands' items. -/
theorem exec_consumes (i : Instr) (s : State) : ∃ r, exec i s = r.finish ∧ Consumes (itemsRead i) s.input r := by
  rcases exec_forms i with ⟨f, hk, hx⟩ | ⟨q, hk, hx⟩ | ⟨hk, hx⟩ | ⟨hk, hx⟩ | ⟨hk, hx⟩ | ⟨hk, hx⟩ | ⟨hk, hx⟩ | ⟨hk, hx⟩ |
    ⟨hk, hl, hr, hx⟩
  · -- an ALU instruction
    obtain ⟨-, -, -, -, hret, -⟩ := Kinds.kinds_of_alu hk
    exact ⟨_, hx s, consumes_resolveBoth_then hret (fun v t =>
      consumes_andThen (consumes_aluResult _ _ _ t) fun _ _ => consumes_writeBack _ _ _) s⟩
  · -- a branch
    obtain ⟨-, -, -, -, hret, -⟩ := Kinds.kinds_of_relation hk
    refine ⟨_, hx s, consumes_resolveBoth_then hret (fun v t => ?_) s⟩
    split_ifs
    · exact consumes_ok () (t.setPc i.fields.c)
    · exact consumes_advance t
  · -- STORE
    have hret : i.fields.opclass ≠ 39#6 := by simp [hk]
    exact ⟨_, hx s, consumes_resolveBoth_then hret (fun v t => consumes_advance (t.storeData _ _)) s⟩
  · -- LOAD
    have hret : i.fields.opclass ≠ 39#6 := by simp [hk]
    exact ⟨_, hx s, consumes_resolveBoth_then hret (fun v t => consumes_writeBack _ _ _) s⟩
  · -- LOADP
    have hret : i.fields.opclass ≠ 39#6 := by simp [hk]
    exact ⟨_, hx s, consumes_resolveBoth_then hret (fun v t => consumes_writeBack _ _ _) s⟩
  · -- CALL
    have hret : i.fields.opclass ≠ 39#6 := by simp [hk]
    exact ⟨_, hx s, consumes_resolveBoth_then hret (fun v t =>
      consumes_andThen (consumes_push _ t) fun _ u => consumes_ok () (u.setPc i.fields.c)) s⟩
  · -- RET
    refine ⟨_, hx s, ?_⟩
    rw [itemsRead, if_pos hk]
    exact consumes_andThen (consumes_pop s) fun p u => consumes_advance (u.setPc p)
  · -- a no-op
    obtain ⟨-, -, -, -, hret, -⟩ := Kinds.kinds_of_nop hk
    exact ⟨_, hx s, consumes_resolveBoth_then hret (fun v t => consumes_advance t) s⟩
  · -- HALT, whose operands are immediates
    have hnone : itemsRead i = 0 := by rw [itemsRead, if_neg (by simp [hk]), itemsOf, itemsOf, if_pos hl, if_pos hr]
    exact ⟨.ok () (haltRun s), hx s, hnone ▸ consumes_ok () (haltRun s)⟩

/-- A next state leaves the input but for the items consumed. -/
theorem input_of_exec {i : Instr} {s t : State} (h : exec i s = .next t) :
    Consumed (itemsRead i) s.input t.input := by
  obtain ⟨r, hx, hr⟩ := exec_consumes i s
  rw [hx] at h
  obtain rfl | ⟨k, u, rfl, rfl⟩ := Result.finish_eq_next.1 h
  · exact hr
  · exact hr

/-- An instruction stops only to wait, with fewer items there than it can consume. -/
theorem exec_eq_fault {i : Instr} {s : State} {e : Fault} (h : exec i s = .fault e) :
    e = .awaitingInput ∧ s.input.length < itemsRead i := by
  obtain ⟨r, hx, hr⟩ := exec_consumes i s
  rw [hx] at h
  obtain ⟨rfl, he⟩ := Result.finish_eq_fault.1 h
  exact ⟨he, hr⟩

theorem exec_ne_refused (i : Instr) (s : State) (e : Refusal) : exec i s ≠ .refused e := by
  obtain ⟨r, hx, -⟩ := exec_consumes i s
  rw [hx]
  exact Result.finish_ne_refused r e

theorem itemsOf_le (o : Operand) : itemsOf o ≤ 1 := by
  unfold itemsOf; split_ifs <;> omega

theorem itemsRead_le (i : Instr) : itemsRead i ≤ 2 := by
  have hl := itemsOf_le i.fields.left
  have hr := itemsOf_le i.fields.right
  unfold itemsRead
  split_ifs <;> omega

/-- RET and an instruction with two immediates read no item. -/
theorem itemsRead_eq_zero {i : Instr} (h : i.fields.opclass = 39#6 ∨
    (i.fields.left.isImmediate = true ∧ i.fields.right.isImmediate = true)) : itemsRead i = 0 := by
  unfold itemsRead
  split_ifs with hret
  · rfl
  · obtain ⟨hl, hr⟩ := h.resolve_left hret
    rw [itemsOf, itemsOf, if_pos hl, if_pos hr]

/-- Settles O29: the input by `input_of_exec`, the output by `out_of_exec`. -/
theorem consoleFrame : Obligations.ConsoleFrame := by
  intro i s t h
  constructor
  · obtain ⟨used, hused, hlen⟩ := input_of_exec h
    refine ⟨used, hused, hlen.trans (itemsRead_le i), fun hnone => ?_⟩
    rw [itemsRead_eq_zero hnone] at hlen
    exact List.length_eq_zero_iff.1 (Nat.le_zero.1 hlen)
  · obtain hout | ⟨hi, hc, v, hout⟩ := out_of_exec h
    · exact ⟨[], by rw [hout, List.append_nil], by simp, fun _ => rfl⟩
    · exact ⟨[v], hout, le_rfl, fun hno => absurd ⟨hi, hc⟩ hno⟩

end Sys2Proof.Proofs.Frames
end

section
/-! PROOF. The step by instructions is the cycle by control signals (40_cycle.md R120, 10_state.md R36 to R42). -/

namespace Sys2Proof.Proofs.Signals

open Sys2Proof.Machine

/-! ## The cycle after its operands are resolved -/

/-- What the cycle does over the signals `g` with the operand values `v` (R126 to R130). -/
def cycleWork (g : ControlSignals) (v : Byte × Byte) (s : State) : Result Unit :=
  (cycleOutput g v.1 v.2 s).andThen fun out s =>
  (match g.destination with
    | some d => cycleDestination g d v.1 v.2 out s
    | none => .ok false s).andThen fun redirected s =>
  let s := if g.writesToDataMemory then s.storeData s.addr v.1 else s
  if redirected then .ok () s else advance s

/-- Without a return the cycle resolves both operands and then works on their values. -/
theorem cycleBody_of_not_return {g : ControlSignals} (h : g.isReturn = false) (s : State) :
    cycleBody g s = (resolveBoth g.leftOperand g.rightOperand s).andThen (cycleWork g) := by
  rw [cycleBody, h, resolveBoth, Result.andThen_assoc]
  simp only [Result.andThen_assoc, Result.andThen_ok]
  rfl

/-! ## The work of each kind -/

section
variable {op a b c : Byte}

theorem cycleWork_alu {f : AluOp} (h : aluOperationOf (opclass op) = some f) (v : Byte × Byte) (s : State) :
    cycleWork (controlSignals op a b c) v s = (aluResult f v.1 v.2 s).andThen fun res s => writeBack c res s := by
  obtain ⟨h16, h24, h25, h38, h39, hq⟩ := Kinds.kinds_of_alu h
  simp [cycleWork, cycleOutput, cycleDestination, controlSignals, writeBack, Result.andThen_assoc, h, h16, h24, h25, h38,
    h39, hq]

theorem cycleWork_branch {q : Rel} (h : branchConditionOf (opclass op) = some q) (v : Byte × Byte) (s : State) :
    cycleWork (controlSignals op a b c) v s = if holds q v.1 v.2 then .ok () (s.setPc c) else advance s := by
  obtain ⟨h16, h24, h25, h38, h39, hf⟩ := Kinds.kinds_of_relation h
  cases hh : holds q v.1 v.2 <;>
  simp [cycleWork, cycleOutput, cycleDestination, controlSignals, h, h16, h24, h25, h38, h39, hf, hh]

theorem cycleWork_nop (h : IsNop (decode op a b c)) (v : Byte × Byte) (s : State) :
    cycleWork (controlSignals op a b c) v s = advance s := by
  have hkinds := Kinds.kinds_of_nop h
  rw [fields_decode] at hkinds
  obtain ⟨h16, h24, h25, h38, h39, hf, hq⟩ := hkinds
  simp [cycleWork, cycleOutput, cycleDestination, controlSignals, h16, h24, h25, h38, h39, hf, hq]

theorem cycleWork_store (h : opclass op = 16#6) (v : Byte × Byte) (s : State) :
    cycleWork (controlSignals op a b c) v s = advance (s.storeData s.addr v.1) := by
  simp [cycleWork, cycleOutput, controlSignals, aluOperationOf, h]

theorem cycleWork_load (h : opclass op = 24#6) (v : Byte × Byte) (s : State) :
    cycleWork (controlSignals op a b c) v s = writeBack c (s.loadData s.addr) s := by
  simp [cycleWork, cycleOutput, cycleDestination, controlSignals, branchConditionOf, writeBack, Result.andThen_assoc, h]

theorem cycleWork_loadp (h : opclass op = 25#6) (v : Byte × Byte) (s : State) :
    cycleWork (controlSignals op a b c) v s = writeBack c (s.loadProgram s.addr) s := by
  simp [cycleWork, cycleOutput, cycleDestination, controlSignals, branchConditionOf, writeBack, Result.andThen_assoc, h]

theorem cycleWork_call (h : opclass op = 38#6) (v : Byte × Byte) (s : State) :
    cycleWork (controlSignals op a b c) v s = (push s.pc s).andThen fun _ s => .ok () (s.setPc c) := by
  simp [cycleWork, cycleOutput, cycleDestination, controlSignals, aluOperationOf, branchConditionOf, Result.andThen_assoc, h]

/-- Any opclass but RET's, whose work after the operands is `work`. -/
theorem cycleBody_finish {work : Byte × Byte → State → Result Unit} (hret : opclass op ≠ 39#6)
    (hwork : ∀ v s, cycleWork (controlSignals op a b c) v s = work v s) (s : State) :
    (cycleBody (controlSignals op a b c) s).finish =
      ((resolveBoth (.ofFlag (immLeft op) a) (.ofFlag (immRight op) b) s).andThen work).finish := by
  have hsignal : (controlSignals op a b c).isReturn = false := beq_false_of_ne hret
  have hfun : cycleWork (controlSignals op a b c) = work := funext fun v => funext fun s => hwork v s
  rw [cycleBody_of_not_return hsignal, hfun]
  rfl

theorem cycleBody_ret (h : opclass op = 39#6) (l r : Operand) (c' : Byte) (s : State) :
    (cycleBody (controlSignals op a b c) s).finish = execRet l r c' s := by
  have hsignal : (controlSignals op a b c).isReturn = true := by simp [controlSignals, h]
  rw [cycleBody, hsignal, if_pos rfl, execRet]

end

/-- An opcode byte whose fields are HALT's is HALT's. -/
theorem opcode_eq_halt {op a b c : Byte} (hk : (decode op a b c).fields.opclass = 63#6)
    (hl : (decode op a b c).fields.left.isImmediate = true) (hr : (decode op a b c).fields.right.isImmediate = true) :
    op = 0xFF#8 := by
  rw [← Codec.opcode_decode op a b c, Instr.opcode, hk, hl, hr]
  rfl

/-- Every opcode byte but HALT's: the instruction's meaning is the cycle over its signals. -/
theorem exec_decode_eq_cycleBody {op : Byte} (hop : op ≠ 0xFF#8) (a b c : Byte) (s : State) :
    exec (decode op a b c) s = (cycleBody (controlSignals op a b c) s).finish := by
  rcases exec_forms (decode op a b c) with ⟨f, hk, hx⟩ | ⟨q, hk, hx⟩ | ⟨hk, hx⟩ | ⟨hk, hx⟩ | ⟨hk, hx⟩ | ⟨hk, hx⟩ |
    ⟨hk, hx⟩ | ⟨hk, hx⟩ | ⟨hk, hl, hr, -⟩
  case inr.inr.inr.inr.inr.inr.inr.inr => exact absurd (opcode_eq_halt hk hl hr) hop
  case inr.inr.inr.inr.inr.inr.inr.inl =>
    obtain ⟨-, -, -, -, h39, -, -⟩ := Kinds.kinds_of_nop hk
    rw [hx, fields_decode]
    rw [fields_decode] at h39
    exact (cycleBody_finish h39 (cycleWork_nop hk) s).symm
  all_goals rw [hx]; simp only [fields_decode] at hk ⊢
  · obtain ⟨-, -, -, -, h39, -⟩ := Kinds.kinds_of_alu hk
    exact (cycleBody_finish h39 (cycleWork_alu hk) s).symm
  · obtain ⟨-, -, -, -, h39, -⟩ := Kinds.kinds_of_relation hk
    exact (cycleBody_finish h39 (cycleWork_branch hk) s).symm
  · exact (cycleBody_finish (by simp [hk]) (cycleWork_store hk) s).symm
  · exact (cycleBody_finish (by simp [hk]) (cycleWork_load hk) s).symm
  · exact (cycleBody_finish (by simp [hk]) (cycleWork_loadp hk) s).symm
  · exact (cycleBody_finish (by simp [hk]) (cycleWork_call hk) s).symm
  · exact (cycleBody_ret hk _ _ _ s).symm

/-- The cycle from Running, over the signals of the four bytes at the PC. -/
theorem cycle_running {s : State} (h : s.run = .running) :
    cycle s =
      if aligned s.pc then
        if s.prom.read s.pc.toNat = 0xFF#8 then .next (haltRun s)
        else (cycleBody (controlSignals (s.prom.read s.pc.toNat) (s.prom.read (s.pc.toNat + 1))
          (s.prom.read (s.pc.toNat + 2)) (s.prom.read (s.pc.toNat + 3))) s).finish
      else .next (s.enterFaulted (.fetch .misaligned)) := by
  by_cases ha : s.pc.toNat % 4 = 0 <;> simp [cycle, stopReason, h, aligned, ha]

/-- Settles O32: the terminal states stop alike; from Running both views test the alignment, then HALT's opcode byte, and
every other opcode byte is `exec_decode_eq_cycleBody`. -/
theorem stepIsTheSignalCycle : Obligations.StepIsTheSignalCycle := by
  intro s
  cases hrun : s.run with
  | running =>
    rw [step_running hrun, cycle_running hrun]
    split_ifs with halign hop
    · rw [State.instrAtPc, hop]
      rfl
    · exact exec_decode_eq_cycleBody hop _ _ _ s
    · rfl
  | halted => rw [step_halted hrun, cycle, stopReason, hrun]
  | faulted => rw [step_faulted hrun, cycle, stopReason, hrun]

end Sys2Proof.Proofs.Signals
end

section
/-! PROOF. The cycle: its fetch, the PC it leaves, and how it ends or waits (40_cycle.md R120 to R136, 20_memory.md R62,
R65). -/

namespace Sys2Proof.Proofs.Cycle

open Sys2Proof.Machine Sys2Proof.Claims

/-! ## The fetch -/

theorem aligned_iff (p : Byte) : aligned p = true ↔ p.toNat % 4 = 0 := beq_iff_eq

theorem step_of_aligned {s : State} (hrun : s.run = .running) (hpc : s.pc.toNat % 4 = 0) :
    step s = exec s.instrAtPc s := by
  rw [step_running hrun, if_pos ((aligned_iff s.pc).2 hpc)]

theorem step_of_misaligned {s : State} (hrun : s.run = .running) (hpc : s.pc.toNat % 4 ≠ 0) :
    step s = .next (s.enterFaulted (.fetch .misaligned)) := by
  rw [step_running hrun, if_neg (mt (aligned_iff s.pc).1 hpc)]

/-- Settles O30: the decoded instruction is the one at the PC. -/
theorem stepRunsTheDecodedInstruction : Obligations.StepRunsTheDecodedInstruction := by
  intro s i hrun
  refine ⟨fun hpc hdecode => ?_, step_of_misaligned hrun⟩
  obtain ⟨rfl, -⟩ := Prod.mk.inj (Except.ok.inj hdecode)
  exact step_of_aligned hrun hpc

/-- A byte of a word placed at an aligned PC. -/
theorem read_placeWord {s : State} (hpc : s.pc.toNat % 4 = 0) (hwf : s.prom.wf = true) (w : BitVec 32) {n : Nat}
    (hn : n < 4) : (s.placeWord w).prom.read (s.pc.toNat + n) = (wordBytes w).getD n 0 := by
  have hlen : (wordBytes w).length = 4 := rfl
  have hlt := s.pc.isLt
  rw [State.placeWord, Memory.read_writeBytes hwf (by omega), if_pos (by omega), Nat.add_sub_cancel_left]

/-- The instruction at the PC where a word is placed is the one the word decodes to. -/
theorem instrAtPc_withFetchWord {s : State} (hpc : s.pc.toNat % 4 = 0) (hwf : s.prom.wf = true) {w : Nat} {i : Instr}
    (hdecode : decodeTableWord 32 w = some i) : (s.withFetchWord 32 w).instrAtPc = i := by
  have hread := fun {n : Nat} => read_placeWord hpc hwf (tableWord 32 w) (n := n)
  have hpc' : (s.placeWord (tableWord 32 w)).pc = s.pc := rfl
  have h0 := hread (n := 0) (by decide)
  rw [Nat.add_zero] at h0
  rw [State.withFetchWord, State.instrAtPc, hpc', h0, hread (by decide), hread (by decide), hread (by decide)]
  exact Option.some.inj hdecode

/-- Settles O31: the fetch reads the placed word's bytes, and the placing changes neither the PC nor the run state. -/
theorem placedWordRuns : Obligations.PlacedWordRuns := by
  intro s w i hrun hpc hwf hdecode
  have hstep := step_of_aligned (s := s.withFetchWord 32 w) hrun hpc
  rw [hstep, instrAtPc_withFetchWord hpc hwf hdecode]

/-- A step with a next state that is not Faulted executed the instruction at the PC. -/
theorem exec_of_step {s t : State} (h : step s = .next t) (ht : t.run ≠ .faulted) :
    s.run = .running ∧ s.pc.toNat % 4 = 0 ∧ exec s.instrAtPc s = .next t := by
  obtain ⟨hrun, ⟨halign, hx⟩ | ⟨-, rfl⟩⟩ := step_eq_next h
  · exact ⟨hrun, (aligned_iff s.pc).1 halign, hx⟩
  · exact absurd rfl ht

/-! ## How a cycle ends -/

/-- An advance that does not fault leaves the run state, and the PC 4 on. -/
theorem afterAdvance_cases (u : State) :
    (u.pc.toNat ≤ 251 ∧ Frames.afterAdvance u = u.setPc (u.pc + 4)) ∨
    (252 ≤ u.pc.toNat ∧ Frames.afterAdvance u = u.enterFaulted (.fetch .outOfRange)) := by
  by_cases h : u.pc.toNat ≤ 251
  · exact .inl ⟨h, Frames.afterAdvance_of_le h⟩
  · exact .inr ⟨by omega, Frames.afterAdvance_off_end h⟩

/-- An instruction keeps the run state and the record, or it is HALT, or it enters Faulted with a record of the present PC. -/
def EndOfCycle (i : Instr) (s t : State) : Prop :=
  (t.run = s.run ∧ t.fault = s.fault) ∨
  (i.fields.opclass = 63#6 ∧ i.fields.left.isImmediate = true ∧ i.fields.right.isImmediate = true ∧ t = haltRun s) ∨
  (t.run = .faulted ∧ ∃ k, t.fault = some ⟨k, t.pc⟩)

theorem endOfCycle_afterAdvance {i : Instr} {s u : State} (hrun : u.run = s.run) (hfault : u.fault = s.fault) :
    EndOfCycle i s (Frames.afterAdvance u) := by
  obtain ⟨-, hu⟩ | ⟨-, hu⟩ := afterAdvance_cases u <;> rw [hu]
  · exact .inl ⟨hrun, hfault⟩
  · exact .inr (.inr ⟨rfl, _, rfl⟩)

theorem endOfCycle_of_exec {i : Instr} {s t : State} (h : exec i s = .next t) : EndOfCycle i s t := by
  cases Frames.nextState_of_exec h with
  | faulted rest k hk => exact .inr (.inr ⟨rfl, k, rfl⟩)
  | halted hk hl hr => exact .inr (.inl ⟨hk, hl, hr, rfl⟩)
  | resultToPc | branchTaken | called => exact .inl ⟨rfl, rfl⟩
  | advanced | resultToCell | resultPrinted | stored | returned => exact endOfCycle_afterAdvance rfl rfl

/-- A cycle that ends Halted fetched the opcode byte 0xFF and changed nothing but the run state. -/
theorem halt_of_step {s t : State} (h : step s = .next t) (ht : t.run = .halted) :
    s.pc.toNat % 4 = 0 ∧ s.prom.read s.pc.toNat = 0xFF#8 ∧ t = { s with run := .halted } := by
  obtain ⟨hrun, hpc, hx⟩ := exec_of_step h (by rw [ht]; decide)
  obtain ⟨hkept, -⟩ | ⟨hk, hl, hr, rfl⟩ | ⟨hfaulted, -⟩ := endOfCycle_of_exec hx
  · rw [ht, hrun] at hkept
    cases hkept
  · exact ⟨hpc, Signals.opcode_eq_halt hk hl hr, rfl⟩
  · rw [ht] at hfaulted
    cases hfaulted

/-- Settles O39: one way by `halt_of_step`, and the byte 0xFF decodes to HALT. -/
theorem onlyHaltHalts : Obligations.OnlyHaltHalts := by
  intro s t hrun hstep
  refine ⟨⟨fun ht => ?_, fun ⟨hpc, hop⟩ => ?_⟩, fun ht => ?_⟩
  · obtain ⟨hpc, hop, -⟩ := halt_of_step hstep ht
    exact ⟨hpc, hop⟩
  · rw [step_of_aligned hrun hpc, State.instrAtPc, hop] at hstep
    cases hstep
    rfl
  · obtain ⟨-, -, hframe⟩ := halt_of_step hstep ht
    exact hframe

/-- A step that waits is one from Running with at most one item left. -/
theorem step_eq_fault {s : State} {e : Fault} (h : step s = .fault e) :
    (s.run = .halted ∧ e = .halted) ∨ (s.run = .faulted ∧ e = .faulted) ∨
      (s.run = .running ∧ e = .awaitingInput ∧ s.input.length ≤ 1) := by
  cases hrun : s.run with
  | running =>
    rw [step_running hrun] at h
    split_ifs at h
    obtain ⟨he, hlen⟩ := Frames.exec_eq_fault h
    have hmost := Frames.itemsRead_le s.instrAtPc
    exact .inr (.inr ⟨rfl, he, by omega⟩)
  | halted =>
    rw [step_halted hrun] at h
    cases h
    exact .inl ⟨rfl, rfl⟩
  | faulted =>
    rw [step_faulted hrun] at h
    cases h
    exact .inr (.inl ⟨rfl, rfl⟩)

theorem step_ne_refused (s : State) (e : Refusal) : step s ≠ .refused e := by
  cases hrun : s.run with
  | running =>
    rw [step_running hrun]
    split_ifs
    · exact Frames.exec_ne_refused _ s e
    · simp
  | halted => simp [step_halted hrun]
  | faulted => simp [step_faulted hrun]

/-- Settles O40: no instruction is refused, and the stops are those of `step_eq_fault`. -/
theorem stepStopsOnlyWhenEndedOrWaiting : Obligations.StepStopsOnlyWhenEndedOrWaiting := fun s =>
  ⟨step_ne_refused s, fun _ => step_eq_fault⟩

/-- Settles O41: a wait leaves at most one item, and two have been supplied. -/
theorem suppliedInputEndsTheWait : Obligations.SuppliedInputEndsTheWait := by
  intro s x y h
  have hlen : ((s.supplyInput x).supplyInput y).input.length = s.input.length + 2 := by simp [State.supplyInput]
  obtain ⟨-, he⟩ | ⟨-, he⟩ | ⟨-, -, hshort⟩ := step_eq_fault h
  · cases he
  · cases he
  · omega

/-! ## The PC after a cycle -/

/-- The PC that an instruction leaves, by its kind: a result for r6, a branch, CALL, RET, or 4 on. -/
def PcAfter (i : Instr) (s t : State) : Prop :=
  (ProducesResult i ∧ i.fields.c = 6#8) ∨
  (IsBranch i ∧ (t.pc = i.fields.c ∨ t.pc.toNat = s.pc.toNat + 4)) ∨
  (i.fields.opclass = 38#6 ∧ t.pc = i.fields.c) ∨
  (i.fields.opclass = 39#6 ∧ t.pc.toNat = (s.stack.read (s.sp - 1)).toNat + 4) ∨
  (i.fields.opclass ≠ 38#6 ∧ i.fields.opclass ≠ 39#6 ∧ t.pc.toNat = s.pc.toNat + 4)

theorem toNat_pc_afterAdvance {u : State} (hrun : (Frames.afterAdvance u).run = .running) :
    (Frames.afterAdvance u).pc.toNat = u.pc.toNat + 4 := by
  obtain ⟨hpc, hu⟩ | ⟨-, hu⟩ := afterAdvance_cases u
  · rw [hu, State.pc_setPc, BitVec.toNat_add]
    change (u.pc.toNat + 4) % 256 = _
    omega
  · rw [hu] at hrun; cases hrun

theorem pcAfter_of_exec {i : Instr} {s t : State} (h : exec i s = .next t) (hrun : t.run = .running) : PcAfter i s t := by
  cases Frames.nextState_of_exec h with
  | faulted => cases hrun
  | halted => cases hrun
  | resultToPc rest v hi hc => exact .inl ⟨hi, hc⟩
  | branchTaken rest hi => exact .inr (.inl ⟨hi, .inl rfl⟩)
  | called rest hk => exact .inr (.inr (.inl ⟨hk, rfl⟩))
  | advanced rest hi =>
    obtain hi | hi := hi
    · exact .inr (.inl ⟨hi, .inr (toNat_pc_afterAdvance hrun)⟩)
    · obtain ⟨-, -, -, h38, h39, -⟩ := Kinds.kinds_of_nop hi
      exact .inr (.inr (.inr (.inr ⟨h38, h39, toNat_pc_afterAdvance hrun⟩)))
  | resultToCell rest v hi hc =>
    obtain ⟨h38, h39, -⟩ := Kinds.not_kinds_of_producesResult hi
    refine .inr (.inr (.inr (.inr ⟨h38, h39, ?_⟩)))
    rw [toNat_pc_afterAdvance hrun, Instructions.pc_setReg_of_le hc]
    rfl
  | resultPrinted rest v hi =>
    obtain ⟨h38, h39, -⟩ := Kinds.not_kinds_of_producesResult hi
    exact .inr (.inr (.inr (.inr ⟨h38, h39, toNat_pc_afterAdvance hrun⟩)))
  | stored rest v hk =>
    exact .inr (.inr (.inr (.inr ⟨by simp [hk], by simp [hk], toNat_pc_afterAdvance hrun⟩)))
  | returned hk => exact .inr (.inr (.inr (.inl ⟨hk, toNat_pc_afterAdvance hrun⟩)))

theorem PcAfter.of_not_redirected {i : Instr} {s t : State} (h : PcAfter i s t) (hcall : i.fields.opclass ≠ 38#6)
    (hbranch : ¬ IsBranch i) (hres : ¬ (ProducesResult i ∧ i.fields.c = 6#8)) (hret : i.fields.opclass ≠ 39#6) :
    t.pc.toNat = s.pc.toNat + 4 := by
  obtain h | ⟨h, -⟩ | ⟨h, -⟩ | ⟨h, -⟩ | ⟨-, -, h⟩ := h
  · exact absurd h hres
  · exact absurd h hbranch
  · exact absurd h hcall
  · exact absurd h hret
  · exact h

theorem PcAfter.of_branch {i : Instr} {s t : State} (h : PcAfter i s t) (hi : IsBranch i) :
    t.pc = i.fields.c ∨ t.pc.toNat = s.pc.toNat + 4 := by
  obtain ⟨hcall, hret, hres⟩ := Kinds.not_kinds_of_isBranch hi
  obtain ⟨h, -⟩ | ⟨-, h⟩ | ⟨h, -⟩ | ⟨h, -⟩ | ⟨-, -, h⟩ := h
  · exact absurd h hres
  · exact h
  · exact absurd h hcall
  · exact absurd h hret
  · exact .inr h

theorem PcAfter.of_call {i : Instr} {s t : State} (h : PcAfter i s t) (hk : i.fields.opclass = 38#6) :
    t.pc = i.fields.c := by
  obtain ⟨h, -⟩ | ⟨h, -⟩ | ⟨-, h⟩ | ⟨h, -⟩ | ⟨h, -⟩ := h
  · exact absurd hk (Kinds.not_kinds_of_producesResult h).1
  · exact absurd hk (Kinds.not_kinds_of_isBranch h).1
  · exact h
  · rw [hk] at h; cases h
  · exact absurd hk h

theorem PcAfter.of_ret {i : Instr} {s t : State} (h : PcAfter i s t) (hk : i.fields.opclass = 39#6) :
    t.pc.toNat = (s.stack.read (s.sp - 1)).toNat + 4 := by
  obtain ⟨h, -⟩ | ⟨h, -⟩ | ⟨h, -⟩ | ⟨-, h⟩ | ⟨-, h, -⟩ := h
  · exact absurd hk (Kinds.not_kinds_of_producesResult h).2.1
  · exact absurd hk (Kinds.not_kinds_of_isBranch h).2.1
  · rw [hk] at h; cases h
  · exact h
  · exact absurd hk h

/-- A cycle that stays Running has resolved its operands. -/
theorem resolved_of_running {l r : Operand} {s t : State} {f : Byte × Byte → State → Result Unit}
    (h : ((resolveBoth l r s).andThen f).finish = .next t) (hrun : t.run = .running) :
    ∃ v rest, resolveBoth l r s = .ok v { s with input := rest } ∧ (f v { s with input := rest }).finish = .next t := by
  obtain ⟨v, rest, -, hres, hf⟩ | ⟨k, rest, -, -, rfl⟩ := resolveBoth_then_next h
  · exact ⟨v, rest, hres, hf⟩
  · cases hrun

/-- A result for r6 is the PC. -/
theorem pc_of_writeBack {c v : Byte} {s t : State} (hc : c = 6#8) (h : (writeBack c v s).finish = .next t) : t.pc = v := by
  rw [hc, writeBack_pc, Result.finish_ok] at h
  cases h
  rfl

theorem pc_of_load {i : Instr} {s t : State} (h : exec i s = .next t) (hrun : t.run = .running)
    (hk : i.fields.opclass = 24#6) (hc : i.fields.c = 6#8) : t.pc = s.data.read s.addr.toNat := by
  rw [Kinds.exec_load hk] at h
  obtain ⟨v, rest, -, hw⟩ := resolved_of_running h hrun
  exact pc_of_writeBack hc hw

theorem pc_of_loadp {i : Instr} {s t : State} (h : exec i s = .next t) (hrun : t.run = .running)
    (hk : i.fields.opclass = 25#6) (hc : i.fields.c = 6#8) : t.pc = s.prom.read s.addr.toNat := by
  rw [Kinds.exec_loadp hk] at h
  obtain ⟨v, rest, -, hw⟩ := resolved_of_running h hrun
  exact pc_of_writeBack hc hw

/-- The ALU's result for r6 is the PC. -/
theorem pc_of_alu {i : Instr} {s t : State} {f : AluOp} (h : exec i s = .next t) (hrun : t.run = .running)
    (hf : aluOperationOf i.fields.opclass = some f) (hc : i.fields.c = 6#8) :
    ∃ (L R : Byte) (s1 s2 : State), resolve i.fields.left s = .ok L s1 ∧ resolve i.fields.right s1 = .ok R s2 ∧
      alu f L R = .ok t.pc := by
  rw [Kinds.exec_alu hf] at h
  obtain ⟨⟨L, R⟩, rest, hres, hw⟩ := resolved_of_running h hrun
  obtain ⟨s1, hl, hr⟩ := resolveBoth_eq_ok hres
  refine ⟨L, R, s1, _, hl, hr, ?_⟩
  rw [aluResult] at hw
  cases hv : alu f L R with
  | ok v =>
    rw [hv] at hw
    rw [pc_of_writeBack hc hw]
  | error e =>
    rw [hv] at hw
    cases hw
    cases hrun

/-- Settles O33: the PC by the kind of the instruction, the flag and the wires by its opclass, and the value of a result for
r6 by its own body. -/
theorem pcUpdateFollowsTheRedirectFlag : Obligations.PcUpdateFollowsTheRedirectFlag := by
  intro s t hstep hrun
  obtain ⟨-, -, hx⟩ := exec_of_step hstep (by rw [hrun]; decide)
  unfold State.instrAtPc at hx ⊢
  generalize s.prom.read s.pc.toNat = op, s.prom.read (s.pc.toNat + 1) = a, s.prom.read (s.pc.toNat + 2) = b,
    s.prom.read (s.pc.toNat + 3) = c at hx ⊢
  have hk : (decode op a b c).fields.opclass = opclass op := by rw [fields_decode]
  have hpc := pcAfter_of_exec hx hrun
  refine ⟨fun hflag hret => ?_, fun hw => ?_, fun hw => ?_, fun hw hc => ?_, fun hw hc => ?_, fun hw hc => ?_, fun hw => ?_⟩
  · have hnone : ¬ (controlSignals op a b c).controlFlowRedirected = true := ne_true_of_eq_false hflag
    rw [Encoding.controlFlowRedirected_iff_kind, not_or, not_or] at hnone
    obtain ⟨hcall, hbranch, hres⟩ := hnone
    refine hpc.of_not_redirected (hk ▸ mt (Encoding.opclass_eq_iff op 38#6).1 hcall) hbranch ?_ hret
    rw [fields_decode]
    exact hres
  · exact hpc.of_branch ((Encoding.branchConditionOf_isSome_iff _).1 (hk ▸ hw))
  · exact hpc.of_call (hk.trans (beq_iff_eq.1 hw))
  · exact pc_of_load hx hrun (hk.trans (beq_iff_eq.1 hw)) hc
  · exact pc_of_loadp hx hrun (hk.trans (beq_iff_eq.1 hw)) hc
  · obtain ⟨f, hf⟩ := Option.isSome_iff_exists.1 (show (aluOperationOf (opclass op)).isSome = true from hw)
    obtain ⟨L, R, s1, s2, hl, hr, hv⟩ := pc_of_alu hx hrun (hk ▸ hf) hc
    refine ⟨L, R, s1, s2, hl, hr, ?_⟩
    rw [hw]
    exact Codec.aluPorts_result (Codec.aluOfCode_of_aluOperationOf op f hf) hv
  · exact hpc.of_ret (hk.trans (beq_iff_eq.1 hw))

end Sys2Proof.Proofs.Cycle
end

section
/-! PROOF. Faults are precise: what the state holds when one is entered (60_exceptions.md R241, R248, R250, 40_cycle.md R130,
R133). -/

namespace Sys2Proof.Proofs.Faults

open Sys2Proof.Machine Sys2Proof.Claims

/-! ## The codes of the fault table -/

/-- The fault table read the other way; the numbers without a row go to the last kind. -/
def kindOfCode : Nat → FaultKind
  | 1 => .arithmetic .subUnderflow
  | 2 => .arithmetic .shiftRange
  | 3 => .arithmetic .divZero
  | 4 => .arithmetic .modZero
  | 5 => .stack .overflow
  | 6 => .stack .underflow
  | 7 => .input .malformed
  | 8 => .input .endOfInput
  | 9 => .fetch .misaligned
  | 10 => .fetch .outOfRange
  | _ => .registerIndex

theorem kindOfCode_code : Function.LeftInverse kindOfCode FaultKind.code := by
  rintro ((_ | _ | _ | _) | (_ | _) | (_ | _) | (_ | _) | _) <;> rfl

/-- Settles O43: the table's eleven rows, which the table read the other way undoes. -/
theorem faultCodes : Obligations.FaultCodes :=
  ⟨rfl, rfl, rfl, rfl, rfl, rfl, rfl, rfl, rfl, rfl, rfl, fun _ _ h => kindOfCode_code.injective h⟩

/-! ## What a faulting cycle has done -/

/-- The two ways to Faulted: with nothing done but input consumed, or off the end of PROM after the instruction's own
effect. -/
def PreciseFault (i : Instr) (s t : State) : Prop :=
  (∃ k rest, k ≠ .fetch .outOfRange ∧ t = ({ s with input := rest } : State).enterFaulted k) ∨
  ∃ u, EffectBeforeAdvance i s u ∧ 252 ≤ u.pc.toNat ∧ t = u.enterFaulted (.fetch .outOfRange)

/-- An advance that ends Faulted ran off the end. -/
theorem off_end_of_advance {u t : State} (h : (advance u).finish = .next t) (hu : u.run = .running)
    (ht : t.run = .faulted) : 252 ≤ u.pc.toNat ∧ t = u.enterFaulted (.fetch .outOfRange) := by
  rw [Frames.advance_finish_eq] at h
  cases h
  obtain ⟨-, e⟩ | ⟨hpc, e⟩ := Cycle.afterAdvance_cases u
  · rw [e] at ht
    exact absurd (hu.symm.trans ht) (by decide)
  · exact ⟨hpc, e⟩

/-- An advance after the instruction's own effect faults precisely. -/
theorem preciseFault_of_advance {i : Instr} {s u t : State} (heffect : EffectBeforeAdvance i s u)
    (h : (advance u).finish = .next t) (hu : u.run = .running) (ht : t.run = .faulted) : PreciseFault i s t := by
  obtain ⟨hpc, e⟩ := off_end_of_advance h hu ht
  exact .inr ⟨u, heffect, hpc, e⟩

/-- A write-back faults precisely: for an index of 8 or more before it writes, else after the result is delivered. -/
theorem preciseFault_of_writeBack {i : Instr} {s t : State} {rest : List InputItem} {v : Byte}
    (heffect : ∀ u, i.fields.c ≠ 6#8 → writeReg i.fields.c v { s with input := rest } = .ok () u →
      EffectBeforeAdvance i s u)
    (h : (writeBack i.fields.c v { s with input := rest }).finish = .next t) (hs : s.run = .running)
    (ht : t.run = .faulted) : PreciseFault i s t := by
  rcases dest_cases i.fields.c with hc | hc | hc | hc
  · have hne : i.fields.c ≠ 6#8 := fun e => by rw [e] at hc; exact absurd hc (by decide)
    rw [writeBack_cell hc] at h
    exact preciseFault_of_advance (heffect _ hne (writeReg_cell (by omega) v _)) h hs ht
  · rw [hc, writeBack_pc, Result.finish_ok] at h
    cases h
    exact absurd (hs.symm.trans ht) (by decide)
  · rw [hc, writeBack_io] at h
    rw [hc, writeReg_io] at heffect
    exact preciseFault_of_advance (heffect _ (by decide) rfl) h hs ht
  · rw [writeBack_invalid hc] at h
    cases h
    exact .inl ⟨.registerIndex, rest, by decide, rfl⟩

/-- An operand's fault is precise, so the rest of the cycle decides. -/
theorem preciseFault_of_resolved {i : Instr} {s t : State} {f : Byte × Byte → State → Result Unit}
    (h : ((resolveBoth i.fields.left i.fields.right s).andThen f).finish = .next t)
    (hf : ∀ L R s1 rest, resolve i.fields.left s = .ok L s1 →
      resolve i.fields.right s1 = .ok R { s with input := rest } →
      (f (L, R) { s with input := rest }).finish = .next t → PreciseFault i s t) : PreciseFault i s t := by
  obtain ⟨⟨L, R⟩, rest, -, hres, hwork⟩ | ⟨k, rest, -, hk, rfl⟩ := resolveBoth_then_next h
  · obtain ⟨s1, hl, hr⟩ := resolveBoth_eq_ok hres
    exact hf L R s1 rest hl hr hwork
  · refine .inl ⟨k, rest, ?_, rfl⟩
    rintro rfl
    obtain hk | hk | hk := hk <;> cases hk

section
variable {i : Instr} {s t : State}

theorem preciseFault_of_alu {f : AluOp} (hk : aluOperationOf i.fields.opclass = some f)
    (h : aluInstr f i.fields.left i.fields.right i.fields.c s = .next t) (hs : s.run = .running) (ht : t.run = .faulted) :
    PreciseFault i s t := by
  refine preciseFault_of_resolved h fun L R s1 rest hl hr hwork => ?_
  rw [aluResult] at hwork
  cases hv : alu f L R with
  | error e =>
    rw [hv] at hwork
    cases hwork
    exact .inl ⟨.arithmetic e, rest, by simp, rfl⟩
  | ok v =>
    rw [hv] at hwork
    exact preciseFault_of_writeBack
      (fun u hc hw => .inr ⟨L, R, s1, _, hl, hr, .inl ⟨v, hc, hw, .inl ⟨f, hk, hv⟩⟩⟩) hwork hs ht

theorem preciseFault_of_branch {q : Rel} (hk : branchConditionOf i.fields.opclass = some q)
    (h : branchInstr q i.fields.left i.fields.right i.fields.c s = .next t) (hs : s.run = .running)
    (ht : t.run = .faulted) : PreciseFault i s t := by
  refine preciseFault_of_resolved h fun L R s1 rest hl hr hwork => ?_
  cases hh : holds q L R with
  | true =>
    rw [hh, if_pos rfl] at hwork
    cases hwork
    exact absurd (hs.symm.trans ht) (by decide)
  | false =>
    rw [hh, if_neg Bool.false_ne_true] at hwork
    exact preciseFault_of_advance (.inr ⟨L, R, s1, _, hl, hr, .inr (.inr (.inl ⟨q, hk, hh, rfl⟩))⟩) hwork hs ht

/-- CALL faults only before it pushes. -/
theorem preciseFault_of_call (h : execCall i.fields.left i.fields.right i.fields.c s = .next t) (hs : s.run = .running)
    (ht : t.run = .faulted) : PreciseFault i s t := by
  refine preciseFault_of_resolved h fun L R s1 rest hl hr hwork => ?_
  rcases Nat.lt_or_ge s.sp 256 with hsp | hsp
  · rw [push_ok (by exact hsp)] at hwork
    cases hwork
    exact absurd (hs.symm.trans ht) (by decide)
  · rw [push_full (by exact hsp)] at hwork
    cases hwork
    exact .inl ⟨.stack .overflow, rest, by decide, rfl⟩

theorem preciseFault_of_ret {l r : Operand} {c : Byte} (hk : i.fields.opclass = 39#6) (h : execRet l r c s = .next t)
    (hs : s.run = .running) (ht : t.run = .faulted) : PreciseFault i s t := by
  rw [execRet] at h
  by_cases hsp : s.sp = 0
  · rw [pop_empty hsp] at h
    cases h
    exact .inl ⟨.stack .underflow, s.input, by decide, rfl⟩
  · rw [pop_ok hsp] at h
    exact preciseFault_of_advance (.inl ⟨hk, Nat.pos_of_ne_zero hsp, rfl⟩) h hs ht

/-- Every instruction's fault is precise. -/
theorem preciseFault_of_exec (h : exec i s = .next t) (hs : s.run = .running) (ht : t.run = .faulted) :
    PreciseFault i s t := by
  rcases exec_forms i with ⟨f, hk, hx⟩ | ⟨q, hk, hx⟩ | ⟨hk, hx⟩ | ⟨hk, hx⟩ | ⟨hk, hx⟩ | ⟨hk, hx⟩ | ⟨hk, hx⟩ | ⟨hk, hx⟩ |
    ⟨hk, hl, hr, hx⟩
  all_goals rw [hx] at h
  · exact preciseFault_of_alu hk h hs ht
  · exact preciseFault_of_branch hk h hs ht
  · -- STORE: the byte is stored when the advance comes
    exact preciseFault_of_resolved h fun L R s1 rest hl hr hwork =>
      preciseFault_of_advance (.inr ⟨L, R, s1, _, hl, hr, .inr (.inl ⟨hk, rfl⟩)⟩) hwork hs ht
  · -- LOAD
    exact preciseFault_of_resolved h fun L R s1 rest hl hr hwork =>
      preciseFault_of_writeBack
        (fun u hc hw => .inr ⟨L, R, s1, _, hl, hr, .inl ⟨_, hc, hw, .inr (.inl ⟨hk, rfl⟩)⟩⟩) hwork hs ht
  · -- LOADP
    exact preciseFault_of_resolved h fun L R s1 rest hl hr hwork =>
      preciseFault_of_writeBack
        (fun u hc hw => .inr ⟨L, R, s1, _, hl, hr, .inl ⟨_, hc, hw, .inr (.inr ⟨hk, rfl⟩)⟩⟩) hwork hs ht
  · exact preciseFault_of_call h hs ht
  · exact preciseFault_of_ret hk h hs ht
  · -- a no-op
    exact preciseFault_of_resolved h fun L R s1 rest hl hr hwork =>
      preciseFault_of_advance (.inr ⟨L, R, s1, _, hl, hr, .inr (.inr (.inr ⟨hk, rfl⟩))⟩) hwork hs ht
  · -- HALT does not fault
    cases h
    cases ht

end

/-- Settles O37: a misaligned fetch has done nothing, and every instruction's fault is precise; the items consumed are the
front of the input. -/
theorem faultsArePrecise : Obligations.FaultsArePrecise := by
  intro s t hstep ht
  obtain ⟨hrun, ⟨-, hx⟩ | ⟨-, rfl⟩⟩ := step_eq_next hstep
  · obtain ⟨k, rest, hk, rfl⟩ | ⟨u, heffect, hpc, rfl⟩ := preciseFault_of_exec hx hrun ht
    · obtain ⟨used, hused, -⟩ := Frames.input_of_exec hx
      exact ⟨k, rfl, fun _ => ⟨rfl, used, hused⟩, fun e => absurd e hk⟩
    · exact ⟨.fetch .outOfRange, rfl, fun hne => absurd rfl hne, fun _ => ⟨u, heffect, hpc, rfl⟩⟩
  · exact ⟨.fetch .misaligned, rfl, fun _ => ⟨rfl, [], rfl⟩, fun e => by cases e⟩

end Sys2Proof.Proofs.Faults
end

section
/-! PROOF. The invariant: it holds after reset and every step keeps it (10_state.md R25, R28, R29, 70_reset_and_hazards.md
R270, 44_call_return.md R223). -/

namespace Sys2Proof.Proofs.Invariant

open Sys2Proof.Machine

/-! ## Reset -/

/-- An image's bytes fill PROM from address 0 and end inside it. -/
theorem prom_wf_boot (image : List Byte) (input : List InputItem) : (State.boot image input).prom.wf = true := by
  have hlen : 0 + (image.take Config.memBytes).length ≤ 256 := by
    rw [Nat.zero_add, List.length_take]
    exact Nat.min_le_left _ _
  have hempty : Memory.wf [] = true := rfl
  exact Memory.wf_writeBytes hempty hlen

theorem inv_boot (image : List Byte) (input : List InputItem) : (State.boot image input).Inv where
  prom_wf := prom_wf_boot image input
  data_wf := rfl
  stack_wf := rfl
  sp_le := Nat.zero_le _
  io_cell_zero := rfl
  record_iff := ⟨fun h => (by cases h), fun h => (by cases h)⟩
  record_pc := fun _ h => by cases h
  returns_aligned := fun _ hk => absurd hk (Nat.not_lt_zero _)

/-- Settles O45: the reset state is the boot of the empty image. -/
theorem resetMeetsInvariant : Obligations.ResetMeetsInvariant := ⟨inv_boot [] [], inv_boot⟩

/-! ## The step -/

/-- Entering a fault keeps the invariant: the record holds the present PC. -/
theorem inv_enterFaulted {s : State} (hs : s.Inv) (k : FaultKind) : (s.enterFaulted k).Inv :=
  { hs with
    record_iff := ⟨fun _ => rfl, fun _ => rfl⟩
    record_pc := fun _ hr => by cases hr; rfl }

/-- A state that is not Faulted has no record. -/
theorem fault_eq_none {s : State} (hs : s.Inv) (hrun : s.run = .running) : s.fault = none := by
  rw [← Option.not_isSome_iff_eq_none, hs.record_iff, hrun]
  decide

section
variable {i : Instr} {s t : State} (hs : s.Inv) (h : exec i s = .next t)
include hs h

theorem data_wf_of_exec : t.data.wf = true := by
  obtain hd | ⟨-, v, hd⟩ := Frames.data_of_exec h <;> rw [hd]
  · exact hs.data_wf
  · exact Memory.wf_write hs.data_wf s.addr.isLt v

theorem stack_wf_of_exec : t.stack.wf = true := by
  obtain ⟨hst, -⟩ | ⟨-, hsp, hst, -⟩ | ⟨-, hst, -⟩ := Frames.stack_of_exec h <;> rw [hst]
  · exact hs.stack_wf
  · exact Memory.wf_write hs.stack_wf hsp s.pc
  · exact hs.stack_wf

theorem sp_le_of_exec : t.sp ≤ 256 := by
  have hle : s.sp ≤ 256 := hs.sp_le
  obtain ⟨-, hsp⟩ | ⟨-, hlt, -, hsp⟩ | ⟨-, -, hsp⟩ := Frames.stack_of_exec h <;> omega

/-- The record is set exactly with the run state Faulted, and then with the present PC. -/
theorem record_of_exec (hrun : s.run = .running) :
    (t.fault.isSome = true ↔ t.run = .faulted) ∧ ∀ r, t.fault = some r → r.pc = t.pc := by
  have hnone := fault_eq_none hs hrun
  obtain ⟨htrun, htfault⟩ | ⟨-, -, -, rfl⟩ | ⟨htrun, k, htfault⟩ := Cycle.endOfCycle_of_exec h
  · simp [htrun, htfault, hrun, hnone]
  · simp [hnone]
  · simp [htrun, htfault]

/-- CALL pushes an aligned address, and every other pending address was pending before. -/
theorem returns_aligned_of_exec (halign : aligned s.pc = true) : ∀ k, k < t.sp → aligned (t.stack.read k) = true := by
  intro k hk
  obtain ⟨hst, hsp⟩ | ⟨-, -, hst, hsp⟩ | ⟨-, hst, hsp⟩ := Frames.stack_of_exec h
  · rw [hst]
    exact hs.returns_aligned k (by omega)
  · rw [hst, Memory.read_write hs.stack_wf]
    split_ifs
    · exact halign
    · exact hs.returns_aligned k (by omega)
  · rw [hst]
    exact hs.returns_aligned k (by omega)

/-- An instruction executed at an aligned PC keeps the invariant. -/
theorem inv_of_exec (hrun : s.run = .running) (halign : aligned s.pc = true) : t.Inv where
  prom_wf := (congrArg Memory.wf (Frames.prom_of_exec h)).trans hs.prom_wf
  data_wf := data_wf_of_exec hs h
  stack_wf := stack_wf_of_exec hs h
  sp_le := sp_le_of_exec hs h
  io_cell_zero := (Frames.io_cell_of_exec h).trans hs.io_cell_zero
  record_iff := (record_of_exec hs h hrun).1
  record_pc := (record_of_exec hs h hrun).2
  returns_aligned := returns_aligned_of_exec hs h halign

end

/-- Settles O46: a step is an instruction at an aligned PC or the misaligned fetch's fault, and both keep the invariant. -/
theorem stepKeepsInvariant : Obligations.StepKeepsInvariant := by
  intro s t hs hstep
  obtain ⟨hrun, ⟨halign, hx⟩ | ⟨-, rfl⟩⟩ := step_eq_next hstep
  · exact inv_of_exec hs hx hrun halign
  · exact inv_enterFaulted hs _

end Sys2Proof.Proofs.Invariant
end

section
/-! PROOF. Noninterference: a relation between states that every shared operation respects is kept by every instruction, and
three relations that are (10_state.md R25, R33, 20_memory.md R61, 44_call_return.md R225). -/

namespace Sys2Proof.Proofs.Simulation

open Sys2Proof.Machine

/-! ## Simulation of the parts of a cycle -/

/-- The second result answers whatever the first one answers, in a related state; while the first waits it may do anything. -/
inductive Simulates (R : State → State → Prop) {α : Type} : Result α → Result α → Prop
  | ok (v : α) {s t : State} (h : R s t) : Simulates R (.ok v s) (.ok v t)
  | raise (k : FaultKind) {s t : State} (h : R s t) : Simulates R (.raise k s) (.raise k t)
  | wait (r : Result α) : Simulates R .wait r

/-- What the shared operations must do for every instruction to keep the relation, STORE and LOAD apart. -/
structure Respects (R : State → State → Prop) : Prop where
  reg : ∀ {s t}, R s t → ∀ j : Fin 8, j ≠ 7 → s.reg j = t.reg j
  prom : ∀ {s t}, R s t → s.prom = t.prom
  inRead : ∀ {s t}, R s t → Simulates R (inRead s) (inRead t)
  setReg : ∀ {s t}, R s t → ∀ (j : Fin 8) (v : Byte), j ≠ 7 → R (s.setReg j v) (t.setReg j v)
  outWrite : ∀ {s t}, R s t → ∀ v, R (outWrite v s) (outWrite v t)
  push : ∀ {s t}, R s t → ∀ v, Simulates R (push v s) (push v t)
  pop : ∀ {s t}, R s t → Simulates R (pop s) (pop t)
  haltRun : ∀ {s t}, R s t → R (haltRun s) (haltRun t)
  enterFaulted : ∀ {s t}, R s t → ∀ k, R (s.enterFaulted k) (t.enterFaulted k)

/-- What STORE and LOAD need besides. -/
structure RespectsData (R : State → State → Prop) : Prop where
  data : ∀ {s t}, R s t → s.data = t.data
  storeData : ∀ {s t}, R s t → ∀ a v, R (s.storeData a v) (t.storeData a v)

section
variable {R : State → State → Prop} {α β : Type}

theorem Simulates.andThen {r r' : Result α} {f g : α → State → Result β} (h : Simulates R r r')
    (hf : ∀ v {s t}, R s t → Simulates R (f v s) (g v t)) : Simulates R (r.andThen f) (r'.andThen g) := by
  cases h with
  | ok v h => exact hf v h
  | raise k h => exact .raise k h
  | wait => exact .wait _

theorem Simulates.of_ok {v : α} {s : State} {r : Result α} (h : Simulates R (.ok v s) r) : ∃ t, r = .ok v t ∧ R s t := by
  cases h with
  | ok _ h => exact ⟨_, rfl, h⟩

theorem Simulates.of_raise {k : FaultKind} {s : State} {r : Result α} (h : Simulates R (.raise k s) r) :
    ∃ t, r = .raise k t ∧ R s t := by
  cases h with
  | raise _ h => exact ⟨_, rfl, h⟩

/-- Where the second result waits, the first one does. -/
theorem Simulates.eq_wait {r : Result α} (h : Simulates R r .wait) : r = .wait := by
  cases h
  rfl

theorem Simulates.finish_next {r r' : Result Unit} (h : Simulates R r r') (hR : Respects R) {s : State}
    (hs : r.finish = .next s) : ∃ t, r'.finish = .next t ∧ R s t := by
  cases h with
  | ok v h => cases hs; exact ⟨_, rfl, h⟩
  | raise k h => cases hs; exact ⟨_, rfl, hR.enterFaulted h k⟩
  | wait => cases hs

theorem Simulates.finish_fault {r r' : Result Unit} (h : Simulates R r r') {e : Fault} (he : r'.finish = .fault e) :
    r.finish = .fault e := by
  obtain ⟨rfl, rfl⟩ := Result.finish_eq_fault.1 he
  rw [h.eq_wait, Result.finish_wait]

end

/-! ## The shared operations -/

/-- The cells that a program can name are not the one behind r7. -/
theorem cell_ne_io {i : Byte} (h : i.toNat ≤ 6) : (⟨i.toNat, by omega⟩ : Fin 8) ≠ 7 := by
  intro e
  have h7 : i.toNat = 7 := congrArg Fin.val e
  omega

theorem simulates_aluResult {R : State → State → Prop} {s t : State} (hst : R s t) (f : AluOp) (a b : Byte) :
    Simulates R (aluResult f a b s) (aluResult f a b t) := by
  unfold aluResult
  split
  · exact .ok _ hst
  · exact .raise _ hst

/-- A console read is respected by a relation that keeps the input and the state with any other input. -/
theorem simulates_inRead {R : State → State → Prop} {s t : State} (hst : R s t) (hinput : s.input = t.input)
    (hrest : ∀ w, R { s with input := w } { t with input := w }) : Simulates R (inRead s) (inRead t) := by
  unfold inRead
  rw [← hinput]
  split
  · exact .wait _
  · exact .ok _ (hrest _)
  · exact .raise _ (hrest _)
  · exact .raise _ hst

/-- A push is respected by a relation that keeps the cursor and the two states after it. -/
theorem simulates_push {R : State → State → Prop} {s t : State} (hst : R s t) (hsp : s.sp = t.sp) (v : Byte)
    (hpushed : s.sp < 256 → R { s with stack := s.stack.write s.sp v, sp := s.sp + 1 }
      { t with stack := t.stack.write t.sp v, sp := t.sp + 1 }) : Simulates R (push v s) (push v t) := by
  by_cases hlt : s.sp < 256
  · rw [push_ok hlt, push_ok (hsp ▸ hlt)]
    exact .ok () (hpushed hlt)
  · rw [push_full (not_lt.1 hlt), push_full (hsp ▸ not_lt.1 hlt)]
    exact .raise _ hst

/-- A pop is respected by a relation that keeps the cursor, the entry popped and the two states after it. -/
theorem simulates_pop {R : State → State → Prop} {s t : State} (hst : R s t) (hsp : s.sp = t.sp)
    (hentry : s.sp ≠ 0 → s.stack.read (s.sp - 1) = t.stack.read (t.sp - 1))
    (hpopped : R { s with sp := s.sp - 1 } { t with sp := t.sp - 1 }) : Simulates R (pop s) (pop t) := by
  by_cases hzero : s.sp = 0
  · rw [pop_empty hzero, pop_empty (hsp ▸ hzero)]
    exact .raise _ hst
  · rw [pop_ok hzero, pop_ok (hsp ▸ hzero), hentry hzero]
    exact .ok _ hpopped

section
variable {R : State → State → Prop} (hR : Respects R) {s t : State} (hst : R s t)
include hR hst

theorem pc_eq : s.pc = t.pc := hR.reg hst 6 (by decide)

theorem addr_eq : s.addr = t.addr := hR.reg hst 5 (by decide)

theorem related_setPc (v : Byte) : R (s.setPc v) (t.setPc v) := hR.setReg hst 6 v (by decide)

theorem simulates_readReg (i : Byte) : Simulates R (readReg i s) (readReg i t) := by
  rcases regSel_cases i with ⟨rfl, -⟩ | ⟨h, -⟩ | ⟨h, -⟩
  · exact hR.inRead hst
  · rw [readReg_cell h, readReg_cell h, hR.reg hst _ (cell_ne_io h)]
    exact .ok _ hst
  · rw [readReg_invalid h, readReg_invalid h]
    exact .raise _ hst

theorem simulates_resolve (o : Operand) : Simulates R (resolve o s) (resolve o t) := by
  cases o with
  | imm v => exact .ok v hst
  | reg i => exact simulates_readReg hR hst i

theorem simulates_resolveBoth (l r : Operand) : Simulates R (resolveBoth l r s) (resolveBoth l r t) :=
  (simulates_resolve hR hst l).andThen fun _ _ _ hst =>
    (simulates_resolve hR hst r).andThen fun _ _ _ hst => .ok _ hst

theorem simulates_advance : Simulates R (advance s) (advance t) := by
  rw [advance_eq, advance_eq, pc_eq hR hst]
  split_ifs
  · exact .ok _ (related_setPc hR hst _)
  · exact .raise _ hst

theorem simulates_writeReg (i v : Byte) : Simulates R (writeReg i v s) (writeReg i v t) := by
  rcases regSel_cases i with ⟨rfl, -⟩ | ⟨h, -⟩ | ⟨h, -⟩
  · exact .ok _ (hR.outWrite hst v)
  · rw [writeReg_cell h, writeReg_cell h]
    exact .ok _ (hR.setReg hst _ v (cell_ne_io h))
  · rw [writeReg_invalid h, writeReg_invalid h]
    exact .raise _ hst

theorem simulates_writeBack (c v : Byte) : Simulates R (writeBack c v s) (writeBack c v t) := by
  refine (simulates_writeReg hR hst c v).andThen fun _ _ _ hst => ?_
  split_ifs
  · exact .ok _ hst
  · exact simulates_advance hR hst

/-! ## The instructions and the step -/

/-- Every instruction keeps the relation; LOAD and STORE where DATA is respected too. -/
theorem exec_simulates (i : Instr) (hdata : i.fields.opclass = 16#6 ∨ i.fields.opclass = 24#6 → RespectsData R) :
    ∃ r r', exec i s = r.finish ∧ exec i t = r'.finish ∧ Simulates R r r' := by
  have hres := simulates_resolveBoth hR hst i.fields.left i.fields.right
  rcases exec_forms i with ⟨f, -, hx⟩ | ⟨q, -, hx⟩ | ⟨hk, hx⟩ | ⟨hk, hx⟩ | ⟨-, hx⟩ | ⟨-, hx⟩ | ⟨-, hx⟩ | ⟨-, hx⟩ |
    ⟨-, -, -, hx⟩
  · exact ⟨_, _, hx s, hx t, hres.andThen fun _ _ _ h =>
      (simulates_aluResult h f _ _).andThen fun _ _ _ h => simulates_writeBack hR h _ _⟩
  · refine ⟨_, _, hx s, hx t, hres.andThen fun v _ _ h => ?_⟩
    split_ifs
    · exact .ok _ (related_setPc hR h _)
    · exact simulates_advance hR h
  · refine ⟨_, _, hx s, hx t, hres.andThen fun v _ _ h => ?_⟩
    rw [addr_eq hR h]
    exact simulates_advance hR ((hdata (.inl hk)).storeData h _ _)
  · refine ⟨_, _, hx s, hx t, hres.andThen fun v u u' h => ?_⟩
    rw [State.loadData, State.loadData, addr_eq hR h, (hdata (.inr hk)).data h]
    exact simulates_writeBack hR h _ _
  · refine ⟨_, _, hx s, hx t, hres.andThen fun v u u' h => ?_⟩
    rw [State.loadProgram, State.loadProgram, addr_eq hR h, hR.prom h]
    exact simulates_writeBack hR h _ _
  · refine ⟨_, _, hx s, hx t, hres.andThen fun v u u' h => ?_⟩
    rw [pc_eq hR h]
    exact (hR.push h _).andThen fun _ _ _ h => .ok _ (related_setPc hR h _)
  · exact ⟨_, _, hx s, hx t, (hR.pop hst).andThen fun v _ _ h => simulates_advance hR (related_setPc hR h v)⟩
  · exact ⟨_, _, hx s, hx t, hres.andThen fun _ _ _ h => simulates_advance hR h⟩
  · exact ⟨.ok () (haltRun s), .ok () (haltRun t), hx s, hx t, .ok () (hR.haltRun hst)⟩

theorem instrAtPc_eq : s.instrAtPc = t.instrAtPc := by
  rw [State.instrAtPc, State.instrAtPc, pc_eq hR hst, hR.prom hst]

/-- A step's next state is matched by a related one. -/
theorem step_next (hdata : RespectsData R) (hrun : s.run = t.run) {s' : State} (h : step s = .next s') :
    ∃ t', step t = .next t' ∧ R s' t' := by
  obtain ⟨hsrun, h⟩ := step_eq_next h
  rw [step_running (hrun.symm.trans hsrun), ← pc_eq hR hst, ← instrAtPc_eq hR hst]
  obtain ⟨halign, hx⟩ | ⟨halign, rfl⟩ := h
  · obtain ⟨r, r', hs, ht, hsim⟩ := exec_simulates hR hst s.instrAtPc fun _ => hdata
    rw [if_pos halign, ht]
    exact hsim.finish_next hR (hs.symm.trans hx)
  · rw [halign, if_neg Bool.false_ne_true]
    exact ⟨_, rfl, hR.enterFaulted hst _⟩

/-- A stop of the second state is one of the first. -/
theorem step_fault (hdata : RespectsData R) (hrun : s.run = t.run) {e : Fault} (h : step t = .fault e) :
    step s = .fault e := by
  cases htrun : t.run with
  | running =>
    rw [step_running htrun, ← pc_eq hR hst, ← instrAtPc_eq hR hst] at h
    rw [step_running (hrun.trans htrun)]
    split_ifs at h ⊢
    obtain ⟨r, r', hs, ht, hsim⟩ := exec_simulates hR hst s.instrAtPc fun _ => hdata
    rw [hs]
    exact hsim.finish_fault (ht.symm.trans h)
  | halted => rw [step_halted (hrun.trans htrun), ← h, step_halted htrun]
  | faulted => rw [step_faulted (hrun.trans htrun), ← h, step_faulted htrun]

end

/-! ## An item supplied early -/

/-- The second state is the first with one more item supplied. -/
def SuppliedWith (x : InputItem) (s t : State) : Prop := t = s.supplyInput x

theorem respects_suppliedWith (x : InputItem) : Respects (SuppliedWith x) where
  reg := by rintro s t rfl j -; rfl
  prom := by rintro s t rfl; rfl
  inRead := by
    rintro s t rfl
    rcases inRead_cases s with ⟨v, rest, hi, e⟩ | ⟨rest, hi, e⟩ | ⟨rest, hi, e⟩ | ⟨-, e⟩ <;> rw [e]
    · have hread : inRead (s.supplyInput x) = .ok v { s with input := rest ++ [x] } := by
        simp [inRead, State.supplyInput, hi]
      rw [hread]
      exact .ok v rfl
    · have hread : inRead (s.supplyInput x) = .raise (.input .malformed) { s with input := rest ++ [x] } := by
        simp [inRead, State.supplyInput, hi]
      rw [hread]
      exact .raise _ rfl
    · have hread : inRead (s.supplyInput x) = .raise (.input .endOfInput) (s.supplyInput x) := by
        simp [inRead, State.supplyInput, hi]
      rw [hread]
      exact .raise _ rfl
    · exact .wait _
  setReg := by rintro s t rfl j v -; rfl
  outWrite := by rintro s t rfl v; rfl
  push := by rintro s t rfl v; exact simulates_push (R := SuppliedWith x) rfl rfl v fun _ => rfl
  pop := by rintro s t rfl; exact simulates_pop (R := SuppliedWith x) rfl rfl (fun _ => rfl) rfl
  haltRun := by rintro s t rfl; rfl
  enterFaulted := by rintro s t rfl k; rfl

theorem respectsData_suppliedWith (x : InputItem) : RespectsData (SuppliedWith x) where
  data := by rintro s t rfl; rfl
  storeData := by rintro s t rfl a v; rfl

/-- Settles O42: every shared operation with an answer gives the same one with the item still at the end of the input. -/
theorem earlyInputChangesNothing : Obligations.EarlyInputChangesNothing := by
  intro s t x h
  obtain ⟨_, ht, rfl⟩ := step_next (respects_suppliedWith x) (s := s) rfl (respectsData_suppliedWith x) rfl h
  exact ht

/-! ## The cell behind r7 and the stale entries of the call stack -/

/-- The states that no program can tell apart, with canonical stacks. -/
structure Alike (s t : State) : Prop where
  visible : s.SameVisible t
  left_wf : s.stack.wf = true
  right_wf : t.stack.wf = true

theorem Alike.symm {s t : State} (h : Alike s t) : Alike t s where
  visible :=
    { regs := fun j hj => (h.visible.regs j hj).symm
      prom := h.visible.prom.symm
      data := h.visible.data.symm
      entries := fun k hk => (h.visible.entries k (h.visible.sp ▸ hk)).symm
      sp := h.visible.sp.symm
      run := h.visible.run.symm
      fault := h.visible.fault.symm
      out := h.visible.out.symm
      input := h.visible.input.symm }
  left_wf := h.right_wf
  right_wf := h.left_wf

theorem Alike.with_input {s t : State} (h : Alike s t) (w : List InputItem) :
    Alike { s with input := w } { t with input := w } :=
  { h with visible := { h.visible with input := rfl } }

/-- A push writes the same entry at the same cursor. -/
theorem Alike.pushed {s t : State} (h : Alike s t) (hsp : s.sp < 256) (v : Byte) :
    Alike { s with stack := s.stack.write s.sp v, sp := s.sp + 1 }
      { t with stack := t.stack.write t.sp v, sp := t.sp + 1 } where
  visible :=
    { h.visible with
      entries := fun k hk => by
        have hle : k < s.sp + 1 := hk
        change (s.stack.write s.sp v).read k = (t.stack.write t.sp v).read k
        rw [Memory.read_write h.left_wf, Memory.read_write h.right_wf, ← h.visible.sp]
        split_ifs with hk'
        · rfl
        · exact h.visible.entries k (by omega)
      sp := congrArg (· + 1) h.visible.sp }
  left_wf := Memory.wf_write h.left_wf hsp v
  right_wf := Memory.wf_write h.right_wf (h.visible.sp ▸ hsp) v

/-- A pop uncovers one entry less, and the popped one is pending in both states. -/
theorem Alike.popped {s t : State} (h : Alike s t) : Alike { s with sp := s.sp - 1 } { t with sp := t.sp - 1 } :=
  { h with
    visible :=
      { h.visible with
        entries := fun k hk => h.visible.entries k (Nat.lt_of_lt_of_le hk (Nat.sub_le _ _))
        sp := congrArg (· - 1) h.visible.sp } }

theorem respects_alike : Respects Alike where
  reg h j hj := h.visible.regs j hj
  prom h := h.visible.prom
  inRead h := simulates_inRead h h.visible.input h.with_input
  setReg h j v hj :=
    { h with
      visible :=
        { h.visible with
          regs := fun m hm => by
            rw [State.reg_setReg, State.reg_setReg, h.visible.regs m hm] } }
  outWrite h v := { h with visible := { h.visible with out := congrArg (· ++ [v]) h.visible.out } }
  push h v := simulates_push h h.visible.sp v fun hlt => h.pushed hlt v
  pop h :=
    simulates_pop h h.visible.sp
      (fun hne => (h.visible.entries _ (Nat.sub_one_lt hne)).trans (by rw [h.visible.sp])) h.popped
  haltRun h := { h with visible := { h.visible with run := rfl } }
  enterFaulted h k :=
    { h with
      visible :=
        { h.visible with
          run := rfl
          fault := by rw [State.enterFaulted_fault, State.enterFaulted_fault, State.pc, h.visible.regs 6 (by decide)]; rfl } }

theorem respectsData_alike : RespectsData Alike where
  data h := h.visible.data
  storeData h a v :=
    { h with visible := { h.visible with data := congrArg (fun m => Memory.write m a.toNat v) h.visible.data } }

/-- Settles O47: what a program cannot see is respected by every shared operation, both ways. -/
theorem staleStateIsUnobservable : Obligations.StaleStateIsUnobservable := by
  intro s t hs ht hvisible
  have halike : Alike s t := ⟨hvisible, hs, ht⟩
  refine ⟨fun s' h => ?_, fun e h => ?_⟩
  · obtain ⟨t', ht', hafter⟩ := step_next respects_alike halike respectsData_alike hvisible.run h
    exact ⟨t', ht', hafter.visible, hafter.left_wf, hafter.right_wf⟩
  · exact step_fault respects_alike halike.symm respectsData_alike hvisible.run.symm h

/-! ## DATA -/

/-- The first state has `d` in DATA, and the second is the same with `d'` there. -/
def DataSwapped (d d' : Memory) (s t : State) : Prop := s.data = d ∧ t = { s with data := d' }

theorem DataSwapped.symm {d d' : Memory} {s t : State} (h : DataSwapped d d' s t) : DataSwapped d' d t s := by
  obtain ⟨rfl, rfl⟩ := h
  exact ⟨rfl, rfl⟩

theorem dataSwapped (s : State) (d : Memory) : DataSwapped s.data d s { s with data := d } := ⟨rfl, rfl⟩

theorem respects_dataSwapped (d d' : Memory) : Respects (DataSwapped d d') where
  reg := by rintro s t ⟨-, rfl⟩ j -; rfl
  prom := by rintro s t ⟨-, rfl⟩; rfl
  inRead := by rintro s t ⟨hs, rfl⟩; exact simulates_inRead (R := DataSwapped d d') ⟨hs, rfl⟩ rfl fun _ => ⟨hs, rfl⟩
  setReg := by rintro s t ⟨hs, rfl⟩ j v -; exact ⟨hs, rfl⟩
  outWrite := by rintro s t ⟨hs, rfl⟩ v; exact ⟨hs, rfl⟩
  push := by rintro s t ⟨hs, rfl⟩ v; exact simulates_push (R := DataSwapped d d') ⟨hs, rfl⟩ rfl v fun _ => ⟨hs, rfl⟩
  pop := by rintro s t ⟨hs, rfl⟩; exact simulates_pop (R := DataSwapped d d') ⟨hs, rfl⟩ rfl (fun _ => rfl) ⟨hs, rfl⟩
  haltRun := by rintro s t ⟨hs, rfl⟩; exact ⟨hs, rfl⟩
  enterFaulted := by rintro s t ⟨hs, rfl⟩ k; exact ⟨hs, rfl⟩

/-- The instruction stops whatever DATA holds, or its next state is the same whatever DATA holds, but for DATA itself. -/
def DataUnread (i : Instr) (s : State) : Prop :=
  (∃ e, ∀ d : Memory, exec i { s with data := d } = .fault e) ∨
  ∃ t : State, ∀ d : Memory, exec i { s with data := d } = .next { t with data := d }

/-- Neither LOAD nor STORE: the swap of DATA is kept to the end, from either side. -/
theorem dataUnread_of_not_memory {i : Instr} (h16 : i.fields.opclass ≠ 16#6) (h24 : i.fields.opclass ≠ 24#6) (s : State) :
    DataUnread i s := by
  have hdata : ∀ R, i.fields.opclass = 16#6 ∨ i.fields.opclass = 24#6 → RespectsData R := fun _ h =>
    absurd h (not_or.2 ⟨h16, h24⟩)
  cases hx : exec i s with
  | next t =>
    refine .inr ⟨t, fun d => ?_⟩
    obtain ⟨r, r', hs, hd, hsim⟩ := exec_simulates (respects_dataSwapped s.data d) (dataSwapped s d) i (hdata _)
    obtain ⟨t', ht', -, rfl⟩ := hsim.finish_next (respects_dataSwapped s.data d) (hs.symm.trans hx)
    rw [hd, ht']
  | fault e =>
    refine .inl ⟨e, fun d => ?_⟩
    obtain ⟨r, r', hd, hs, hsim⟩ := exec_simulates (respects_dataSwapped d s.data) (dataSwapped s d).symm i (hdata _)
    rw [hd]
    exact hsim.finish_fault (hs.symm.trans hx)
  | refused e => exact absurd hx (Frames.exec_ne_refused i s e)

/-- An advance does not look at DATA. -/
theorem afterAdvance_with_data (u : State) (d : Memory) :
    Frames.afterAdvance { u with data := d } = { Frames.afterAdvance u with data := d } := by
  by_cases h : u.pc.toNat ≤ 251
  · rw [Frames.afterAdvance_of_le h, Frames.afterAdvance_of_le (by exact h)]
    rfl
  · rw [Frames.afterAdvance_off_end h, Frames.afterAdvance_off_end (by exact h)]
    rfl

/-- STORE's operands end it whatever DATA holds, or resolve to one byte to be stored. -/
theorem store_with_data (l r : Operand) (c : Byte) (s : State) :
    DataUnread (.store l r c) s ∨ ∃ (t : State) (v : Byte), ∀ d : Memory,
      exec (.store l r c) { s with data := d } = .next { t with data := d.write s.addr.toNat v } := by
  have hexec : ∀ s, exec (.store l r c) s =
      ((resolveBoth l r s).andThen fun v s => advance (s.storeData s.addr v.1)).finish := fun _ => rfl
  have hsim := fun d => simulates_resolveBoth (respects_dataSwapped s.data d) (dataSwapped s d) l r
  cases hres : resolveBoth l r s with
  | ok v u =>
    obtain ⟨s1, hl, hr⟩ := resolveBoth_eq_ok hres
    obtain ⟨rest, rfl⟩ := Instructions.resolve_ok_both hl hr
    refine .inr ⟨Frames.afterAdvance { s with input := rest }, v.1, fun d => ?_⟩
    obtain ⟨_, hd, -, rfl⟩ := (hres ▸ hsim d).of_ok
    rw [hexec, hd, Result.andThen_ok, Frames.advance_finish_eq, ← afterAdvance_with_data]
    rfl
  | raise k u =>
    refine .inl (.inr ⟨u.enterFaulted k, fun d => ?_⟩)
    obtain ⟨_, hd, -, rfl⟩ := (hres ▸ hsim d).of_raise
    rw [hexec, hd]
    rfl
  | wait =>
    refine .inl (.inl ⟨.awaitingInput, fun d => ?_⟩)
    have hback := simulates_resolveBoth (respects_dataSwapped d s.data) (dataSwapped s d).symm l r
    rw [hres] at hback
    rw [hexec, hback.eq_wait]
    rfl

/-- Settles O48: STORE by `store_with_data`, every other instruction but LOAD by `dataUnread_of_not_memory`. -/
theorem dataIsReadOnlyByLoad : Obligations.DataIsReadOnlyByLoad := by
  intro i s h24
  have hunread : DataUnread i s ∨ (i.fields.opclass = 16#6 ∧ ∃ (t : State) (v : Byte), ∀ d : Memory,
      exec i { s with data := d } = .next { t with data := d.write s.addr.toNat v }) := by
    by_cases h16 : i.fields.opclass = 16#6
    · have hstore := store_with_data i.fields.left i.fields.right i.fields.c s
      rw [← Kinds.eq_store_of_opclass h16] at hstore
      exact hstore.imp_right fun h => ⟨h16, h⟩
    · exact .inl (dataUnread_of_not_memory h16 h24 s)
  exact or_assoc.1 hunread

end Sys2Proof.Proofs.Simulation
end
